-- ==== Sys2Proof/Word.lean ====
section
/-! DEFINITION. The data the block handles: bytes, 16- and 32-bit words, address arrays, frames. -/

namespace Sys2Proof

/-- A byte, the unit of addressing of the packet buffer (R41). -/
abbrev Byte := BitVec 8

/-- A 16-bit length, port or checksum (R5 "Widths"). -/
abbrev Half := BitVec 16

/-- A command word (R16) or the raw checksum accumulator (R31). -/
abbrev Word := BitVec 32

/-- A MAC address: six bytes, byte 0 the first on the wire (R8, R42). -/
abbrev Mac := Vector Byte 6

/-- An IPv6 address: sixteen bytes, byte 0 the first on the wire (R8, R42). -/
abbrev Ip := Vector Byte 16

/-- A frame as NI delivers or takes it: its bytes from the Ethernet destination MAC on, without
preamble or frame check sequence (R41, D6). -/
abbrev Frame := List Byte

end Sys2Proof
end

