-- ==== Sys2Proof/Syntax.lean ====
section
/-! DEFINITION. The instructions: one constructor per row of spec/opcode_table.json, the seven command
words, the reserved command space, and the nine inbound frame classes (R55). -/

namespace Sys2Proof

/-- What the block decodes (R55): a command word H writes to CMD, or an inbound frame that POLL
received. A FRAME constructor carries the whole frame, which is its encoding: the class is its opcode,
the other bytes are its operands. -/
inductive Instr where
  /-- 0x00: nothing but CMDERR (R167). -/
  | nop
  /-- 0x01: one run-loop iteration (R80). -/
  | poll
  /-- 0x02: build UDP headers to the remote endpoint and transmit (R156). -/
  | udpsend (len : Half)
  /-- 0x03: the same, back to the sender of the held datagram (R158). -/
  | udpreply (len : Half)
  /-- 0x04: compute and store the checksum of the segment in the buffer (R120). -/
  | ckfill
  /-- 0x05: verify the checksum of the segment in the buffer (R121). -/
  | ckvfy
  /-- 0x06: transmit the first bytes of the buffer as they stand (R170). -/
  | xmit (len : Half)
  /-- Any other command word (R59). -/
  | reservedCmd (w : Word)
  /-- Class 1, shorter than the two headers (R81). -/
  | fShort (f : Frame)
  /-- Class 4, Neighbor Solicitation (R134 to R136). -/
  | fNs (f : Frame)
  /-- Class 5, Neighbor Advertisement (R138). -/
  | fNa (f : Frame)
  /-- Class 6, Echo Request (R139). -/
  | fEchoReq (f : Frame)
  /-- Class 8, UDP datagram (R150 to R154). -/
  | fUdp (f : Frame)
  /-- Class 7, any other ICMPv6 type (R140). -/
  | fIcmpOther (f : Frame)
  /-- Class 9, any other next header (R88). -/
  | fOtherNh (f : Frame)
  /-- Class 3, IPv6 EtherType with another version (R83). -/
  | fBadVersion (f : Frame)
  /-- Class 2, another EtherType (R82). -/
  | fNotIpv6 (f : Frame)
  deriving DecidableEq, Repr

end Sys2Proof
end

