-- ==== Sys2Proof/WellFormed.lean ====
section
/-! DEFINITION. Which terms of Instr stand for something the block can decode: the reserved-word test of
R59 and the class tests of R70, in the spec's own order. -/

namespace Sys2Proof

/-- R59: OP in 0x07 to 0xFF, ZERO not 0, or a LEN that must be 0 and is not. -/
def reservedWord (w : Word) : Bool :=
  let op := w.extractLsb' 0 8
  let len := w.extractLsb' 8 16
  let zero := w.extractLsb' 24 8
  decide (0x07 ≤ op.toNat) || zero != 0 ||
    ((op == 0x00 || op == 0x01 || op == 0x04 || op == 0x05) && len != 0)

/-- Byte `i` of a frame; a byte the frame does not have counts as 0, which matters only for the type
byte of a 54-byte frame (log 10). -/
def frameByte (f : Frame) (i : Nat) : Byte := f.getD i 0

/-- The nine classes of R70, numbered as there. -/
inductive FrameClass where
  | short | notIpv6 | badVersion | ns | na | echoReq | icmpOther | udp | otherNh
  deriving DecidableEq, Repr

/-- R70: the class of a frame, "found by testing in this order". -/
def frameClass (f : Frame) : FrameClass :=
  if f.length < 54 then .short
  else if ¬ (frameByte f 12 = 0x86 ∧ frameByte f 13 = 0xDD) then .notIpv6
  else if (frameByte f 14).extractLsb' 4 4 ≠ 6 then .badVersion
  else if frameByte f 20 = 58 then
    if frameByte f 54 = 135 then .ns
    else if frameByte f 54 = 136 then .na
    else if frameByte f 54 = 128 then .echoReq
    else .icmpOther
  else if frameByte f 20 = 17 then .udp
  else .otherNh

/-- A frame of a class: not empty ("An empty byte string is not a frame", R80) and of that class. -/
def frameOf (c : FrameClass) (f : Frame) : Bool := !f.isEmpty && frameClass f == c

/-- The well-formed instructions: those some command word or some frame encodes. -/
def Instr.wf : Instr → Bool
  | .nop => true
  | .poll => true
  | .udpsend _ => true
  | .udpreply _ => true
  | .ckfill => true
  | .ckvfy => true
  | .xmit _ => true
  | .reservedCmd w => reservedWord w
  | .fShort f => frameOf .short f
  | .fNs f => frameOf .ns f
  | .fNa f => frameOf .na f
  | .fEchoReq f => frameOf .echoReq f
  | .fUdp f => frameOf .udp f
  | .fIcmpOther f => frameOf .icmpOther f
  | .fOtherNh f => frameOf .otherNh f
  | .fBadVersion f => frameOf .badVersion f
  | .fNotIpv6 f => frameOf .notIpv6 f

end Sys2Proof
end

