-- ==== Sys2Proof/Decode.lean ====
section
/-! DEFINITION. The decoder, total on any command word and any byte string, and after it the encoder,
both written from R56 to R59 and from the FRAME rows of spec/opcode_table.json (R55, R70). -/

namespace Sys2Proof

/-! ## The command word -/

/-- R56: OP = w[7:0]. -/
def cmdOp (w : Word) : Byte := w.extractLsb' 0 8

/-- R56: LEN = w[23:8]. -/
def cmdLen (w : Word) : Half := w.extractLsb' 8 16

/-- R56: ZERO = w[31:24]. -/
def cmdZero (w : Word) : Byte := w.extractLsb' 24 8

/-- R57: the opcode map, for a word whose ZERO field is 0. Commands without an argument ask for
LEN = 0 (R59). -/
def decodeOp (w : Word) : Instr :=
  let len := cmdLen w
  match (cmdOp w).toNat with
  | 0x00 => if len = 0 then .nop else .reservedCmd w
  | 0x01 => if len = 0 then .poll else .reservedCmd w
  | 0x02 => .udpsend len
  | 0x03 => .udpreply len
  | 0x04 => if len = 0 then .ckfill else .reservedCmd w
  | 0x05 => if len = 0 then .ckvfy else .reservedCmd w
  | 0x06 => .xmit len
  | _ => .reservedCmd w

/-- The command decoder, total on 32-bit words: a word that is no command is RESERVED_CMD, by name (R59). -/
def decodeCmd (w : Word) : Instr := if cmdZero w = 0 then decodeOp w else .reservedCmd w

/-! ## The inbound frame -/

/-- A condition on one buffer offset: the byte AND `mask` equals `want`. -/
structure ByteTest where
  offset : Nat
  mask : Byte
  want : Byte
  deriving DecidableEq, Repr

/-- A FRAME row of spec/opcode_table.json: its condition on L and the offsets where its mask is not 0. -/
structure FrameRow where
  isClass : FrameClass
  short : Bool
  tests : List ByteTest
  deriving DecidableEq, Repr

/-- BUF[12..13] = 86 dd. -/
def testIpv6 : List ByteTest := [⟨12, 0xFF, 0x86⟩, ⟨13, 0xFF, 0xDD⟩]

/-- BUF[14] AND f0 = 60, after the EtherType. -/
def testVersion6 : List ByteTest := testIpv6 ++ [⟨14, 0xF0, 0x60⟩]

/-- BUF[20] = 58, after the version. -/
def testIcmpv6 : List ByteTest := testVersion6 ++ [⟨20, 0xFF, 0x3A⟩]

/-- The nine FRAME rows in ascending `order`; the first match wins (R55). -/
def frameRows : List FrameRow :=
  [ ⟨.short, true, []⟩,
    ⟨.ns, false, testIcmpv6 ++ [⟨54, 0xFF, 0x87⟩]⟩,
    ⟨.na, false, testIcmpv6 ++ [⟨54, 0xFF, 0x88⟩]⟩,
    ⟨.echoReq, false, testIcmpv6 ++ [⟨54, 0xFF, 0x80⟩]⟩,
    ⟨.udp, false, testVersion6 ++ [⟨20, 0xFF, 0x11⟩]⟩,
    ⟨.icmpOther, false, testIcmpv6⟩,
    ⟨.otherNh, false, testVersion6⟩,
    ⟨.badVersion, false, testIpv6⟩,
    ⟨.notIpv6, false, []⟩ ]

/-- Whether a frame satisfies a byte test. -/
def ByteTest.passes (t : ByteTest) (f : Frame) : Bool := frameByte f t.offset &&& t.mask == t.want

/-- "a frame matches when L satisfies 'length' and (BUF[i] AND mask[i]) = match[i] for all i". -/
def FrameRow.accepts (r : FrameRow) (f : Frame) : Bool :=
  (decide (f.length < 54) == r.short) && r.tests.all (·.passes f)

/-- The instruction of a class. -/
def FrameClass.instr (f : Frame) : FrameClass → Instr
  | .short => .fShort f
  | .notIpv6 => .fNotIpv6 f
  | .badVersion => .fBadVersion f
  | .ns => .fNs f
  | .na => .fNa f
  | .echoReq => .fEchoReq f
  | .icmpOther => .fIcmpOther f
  | .udp => .fUdp f
  | .otherNh => .fOtherNh f

/-- Why a byte string decodes to no instruction. -/
inductive DecodeError where
  /-- "An empty byte string is not a frame; NI answers `none` instead" (R80). -/
  | emptyFrame
  /-- No FRAME row matches. Never raised: the two last rows between them take what is left. -/
  | noRow
  deriving DecidableEq, Repr

/-- The frame decoder: rows tried in order, first match wins (R55). -/
def decodeFrame (f : Frame) : Except DecodeError Instr :=
  if f.isEmpty then .error .emptyFrame
  else
    match frameRows.find? (·.accepts f) with
    | some r => .ok (r.isClass.instr f)
    | none => .error .noRow

/-! ## Both kinds of word, and the encoder -/

/-- The two kinds of word the block decodes (R55). -/
inductive Encoding where
  | cmd (w : Word)
  | frame (f : Frame)
  deriving DecidableEq, Repr

/-- The decoder on either kind of word. -/
def decode : Encoding → Except DecodeError Instr
  | .cmd w => .ok (decodeCmd w)
  | .frame f => decodeFrame f

/-- The command word of an opcode and an argument (R56): ZERO, LEN, OP from the top. -/
def cmdWord (op : Byte) (len : Half) : Word := (0#8 ++ len ++ op : BitVec (8 + 16 + 8))

/-- The encoder (R57; a frame is its own encoding). -/
def encode : Instr → Encoding
  | .nop => .cmd (cmdWord 0x00 0)
  | .poll => .cmd (cmdWord 0x01 0)
  | .udpsend len => .cmd (cmdWord 0x02 len)
  | .udpreply len => .cmd (cmdWord 0x03 len)
  | .ckfill => .cmd (cmdWord 0x04 0)
  | .ckvfy => .cmd (cmdWord 0x05 0)
  | .xmit len => .cmd (cmdWord 0x06 len)
  | .reservedCmd w => .cmd w
  | .fShort f => .frame f
  | .fNs f => .frame f
  | .fNa f => .frame f
  | .fEchoReq f => .frame f
  | .fUdp f => .frame f
  | .fIcmpOther f => .frame f
  | .fOtherNh f => .frame f
  | .fBadVersion f => .frame f
  | .fNotIpv6 f => .frame f

/-! ## Words numbered as the opcode table numbers them -/

/-- The `n` lowest bytes of `w`, the least significant first: a frame whose byte 0 is bits 7..0. -/
def tableBytes : (n w : Nat) → Frame
  | 0, _ => []
  | n + 1, w => BitVec.ofNat 8 (w % 256) :: tableBytes n (w / 256)

/-- A word of the opcode table: up to 32 bits it is a command word, above that a frame of that many
bytes (log 12). -/
def tableEncoding (nbits w : Nat) : Encoding :=
  if nbits ≤ 32 then .cmd (BitVec.ofNat 32 (w % 2 ^ nbits)) else .frame (tableBytes (nbits / 8) w)

/-- What the decoder reads from a word of the opcode table. -/
def decodeTableWord (nbits w : Nat) : Option Instr :=
  match decode (tableEncoding nbits w) with
  | .ok i => some i
  | .error _ => none

end Sys2Proof
end

