-- ==== Sys2Proof/Config.lean ====
section
/-! DEFINITION. What an implementation fixes (R5, rows marked OPEN or parameter) and the free value of
the spec: the content of buffer bytes that nothing has written since reset (U1). -/

namespace Sys2Proof

/-- The parameters of the block (R5, D5, D17). A value carries the bounds R5 gives BUF_SIZE, so an
out-of-range size cannot be written down. State holds one and no step changes it (log 4). -/
structure Params where
  /-- BUF_SIZE, the capacity of the packet buffer in bytes. -/
  bufSize : Nat
  /-- NA_FLAGS, the flags byte of a generated Neighbor Advertisement. -/
  naFlags : Byte
  /-- R5: 86 <= BUF_SIZE. -/
  bufSize_ge : 86 ≤ bufSize := by decide
  /-- R5: BUF_SIZE <= 65535. -/
  bufSize_le : bufSize ≤ 65535 := by decide
  deriving DecidableEq, Repr

/-- The parameters of the spec's standard vectors: "NA_FLAGS = 0x60; BUF_SIZE = 600 unless a vector
says otherwise" (95_test_vectors.md). DESIGN CHOICE, unsafe (log 4): only `State.reset` uses it. -/
def Params.standard : Params := { bufSize := 600, naFlags := 0x60 }

/-- FREE VALUE (U1, R37): what the buffer byte at an offset holds when nothing has written it since
the reset numbered `epoch`. Arbitrary but fixed: nothing in Lean can evaluate it (log 5). -/
opaque Config.bufInit (epoch offset : Nat) : Byte

end Sys2Proof
end

