-- ==== Sys2Proof/Machine/State.lean ====
section
/-! DEFINITION. The state of the block (10_state.md), the host's accesses and the values they carry, the
reasons a step can stop, and the state after reset (R37). Plain data throughout. -/

namespace Sys2Proof.Machine

/-- STATUS.DISP: what the last POLL did, in the order of R18's codes 0 to 15. Codes 16 to 31 are "never
written" and have no constructor. -/
inductive Disp where
  | noframe | dropOversize | dropShort | dropEthertype | dropVersion | dropLength | dropUlShort
  | dropUdpLen | dropCksum | ignNh | ignIcmpType | ignNsTarget | repliedNa | repliedEcho
  | deliveredNa | deliveredUdp
  deriving DecidableEq, Repr

/-- STATUS.HOLD: what received frame the buffer holds for the host (R19); code 3 is never written. -/
inductive Hold where
  | none | udp | na
  deriving DecidableEq, Repr

/-- STATUS.CMDERR: the outcome of the last command (R20); codes 6 and 7 are never written. -/
inductive CmdErr where
  | ok | disabled | badop | badlen | noctx | badframe
  deriving DecidableEq, Repr

/-- STATUS, register 2 (R17). The host cannot write it, so its fields are the storage and the 16-bit
word is the view `Status.toBits`; bits 15:11 have no storage and read 0. -/
structure Status where
  /-- Bits 4:0, written by POLL only. -/
  disp : Disp
  /-- Bits 6:5. -/
  hold : Hold
  /-- Bit 7: the last checksum verification matched (R21). -/
  ckok : Bool
  /-- Bits 10:8, written by every command. -/
  cmderr : CmdErr
  deriving DecidableEq, Repr

/-- A value carried by one register access: a register is read and written whole (R47), a number
(narrower registers zero-extended) or an address array (log 7). -/
inductive RegVal where
  | num (v : Word)
  | mac (v : Mac)
  | ip (v : Ip)
  deriving DecidableEq, Repr

/-- One host access, or the event RESET (R10, R75, R200). -/
inductive Access where
  /-- `RESET`: reset applied from outside. -/
  | reset
  /-- `RD`: read register `n`. -/
  | rd (n : Nat)
  /-- `WR`: write register `n`; to CMD it is a command. -/
  | wr (n : Nat) (v : RegVal)
  /-- `BR`: read the buffer byte at an offset. -/
  | br (offset : Half)
  /-- `BW`: write the buffer byte at an offset. -/
  | bw (offset : Half) (v : Byte)
  deriving DecidableEq, Repr

/-- The written bytes of the packet buffer by offset, addresses strictly rising; an offset not listed has
not been written since reset and reads as a free value (log 5). -/
abbrev Memory := List Host.Cell

/-- The state of the machine: the registers of R13 that have storage, the packet buffer (R33), the
transmit log (R36), and after them the model's own fields. -/
structure State where
  /-- CTRL.EN, register 0 bit 0; the other bits of CTRL read 0 (R15). -/
  en : Bool
  /-- STATUS, register 2 (R17). -/
  status : Status
  /-- RXLEN, register 3 (R29). -/
  rxlen : Half
  /-- TXLEN, register 4 (R30). -/
  txlen : Half
  /-- CKACC, register 5 (R31). -/
  ckacc : Word
  /-- CKRES, register 6 (R32). -/
  ckres : Half
  /-- HOPLIM, register 7 (R28). -/
  hoplim : Byte
  /-- LMAC, register 8 (R26). -/
  lmac : Mac
  /-- LIP, register 9 (R27). -/
  lip : Ip
  /-- LPORT, register 10 (R25). -/
  lport : Half
  /-- RMAC, register 11 (R22). -/
  rmac : Mac
  /-- RIP, register 12 (R23). -/
  rip : Ip
  /-- RPORT, register 13 (R24). -/
  rport : Half
  /-- BUF, the packet buffer (R33). -/
  buf : Memory
  /-- TXLOG, oldest first (R36). -/
  txlog : List Frame
  /-- Model's own: BUF_SIZE and NA_FLAGS (R5), changed by no step (log 4). -/
  params : Params
  /-- Model's own: how many resets came before, the index of the free values (log 5, log 6). -/
  epoch : Nat
  /-- Model's own: the host accesses still to come, next first (log 1). -/
  host : List Access
  /-- Model's own: NI's answers still to come, next first (log 1). -/
  rx : List (Option Frame)
  /-- Model's own: the values returned to the host, oldest first (log 3). -/
  reads : List RegVal
  deriving DecidableEq, Repr

/-- A machine fault. "The block has no exception, trap or fault that reaches the host" (R180): the type
is empty, so no step can answer one. -/
inductive Fault where
  deriving DecidableEq, Repr

/-- A refusal of the MODEL (not of the block, whose refusals are next states with a CMDERR code, R186). -/
inductive Refusal where
  /-- Raised only by an arm of `exec` whose instruction has no meaning yet; safe. No arm raises it. -/
  | notModelled (mnemonic : String)
  deriving DecidableEq, Repr

/-- STATUS after reset (R37). -/
def Status.reset : Status := { disp := .noframe, hold := .none, ckok := false, cmderr := .ok }

/-- The reset state for given parameters (R37, R200): every register zero, EN = 0, TXLOG empty, every
buffer byte unwritten, and no input waiting. -/
def State.resetWith (p : Params) : State where
  en := false
  status := .reset
  rxlen := 0
  txlen := 0
  ckacc := 0
  ckres := 0
  hoplim := 0
  lmac := Vector.replicate 6 0
  lip := Vector.replicate 16 0
  lport := 0
  rmac := Vector.replicate 6 0
  rip := Vector.replicate 16 0
  rport := 0
  buf := []
  txlog := []
  params := p
  epoch := 0
  host := []
  rx := []
  reads := []

/-- The machine right after reset (R37), with the parameters of the spec's standard vectors (log 4). -/
def State.reset : State := State.resetWith Params.standard

end Sys2Proof.Machine
end

