-- ==== Sys2Proof/Machine/Flags.lean ====
section
/-! DEFINITION. The STATUS register: the codes of its fields (R18 to R20), its 16-bit word (R17), and the
one-field updates every command and POLL use. The block has no other flags (R39). -/

namespace Sys2Proof.Machine

/-- The DISP codes of R18. -/
def Disp.code : Disp → BitVec 5
  | .noframe => 0
  | .dropOversize => 1
  | .dropShort => 2
  | .dropEthertype => 3
  | .dropVersion => 4
  | .dropLength => 5
  | .dropUlShort => 6
  | .dropUdpLen => 7
  | .dropCksum => 8
  | .ignNh => 9
  | .ignIcmpType => 10
  | .ignNsTarget => 11
  | .repliedNa => 12
  | .repliedEcho => 13
  | .deliveredNa => 14
  | .deliveredUdp => 15

/-- The HOLD codes of R19. -/
def Hold.code : Hold → BitVec 2
  | .none => 0
  | .udp => 1
  | .na => 2

/-- The CMDERR codes of R20. -/
def CmdErr.code : CmdErr → BitVec 3
  | .ok => 0
  | .disabled => 1
  | .badop => 2
  | .badlen => 3
  | .noctx => 4
  | .badframe => 5

/-- The word a read of STATUS returns (R17): bits 15:11 zero, CMDERR 10:8, CKOK 7, HOLD 6:5, DISP 4:0. -/
def Status.toBits (st : Status) : Half :=
  (0#5 ++ st.cmderr.code ++ BitVec.ofBool st.ckok ++ st.hold.code ++ st.disp.code :
    BitVec (5 + 3 + 1 + 2 + 5))

/-- The 8-bit value a read of CTRL returns (R15): EN in bit 0, bits 7:1 zero. -/
def ctrlBits (en : Bool) : Byte := (0#7 ++ BitVec.ofBool en : BitVec (7 + 1))

/-- `x[STATUS].DISP <- c`. -/
def State.setDisp (s : State) (c : Disp) : State := { s with status := { s.status with disp := c } }

/-- `x[STATUS].HOLD <- h`. -/
def State.setHold (s : State) (h : Hold) : State := { s with status := { s.status with hold := h } }

/-- `x[STATUS].CKOK <- ok`. -/
def State.setCkok (s : State) (ok : Bool) : State := { s with status := { s.status with ckok := ok } }

/-- `x[STATUS].CMDERR <- e`. -/
def State.setCmderr (s : State) (e : CmdErr) : State :=
  { s with status := { s.status with cmderr := e } }

end Sys2Proof.Machine
end

