-- ==== Sys2Proof/Machine/Ops.lean ====
section
/-! DEFINITION. The named operations over the packet buffer and the environment (R8, R12, R36), and the
block's three early ends of a step, which take the place of exceptions (R180): drop, ignore, refuse. -/

namespace Sys2Proof.Machine

/-! ## The buffer as a list of cells -/

/-- The byte written at an offset, if any was since reset. -/
def Memory.read : Memory → Nat → Option Byte
  | [], _ => none
  | (k, v) :: m, a => if a = k then some v else Memory.read m a

/-- Writes one byte, keeping offsets strictly rising. -/
def Memory.write : Memory → Nat → Byte → Memory
  | [], a, v => [(a, v)]
  | (k, w) :: m, a, v =>
    if a < k then (a, v) :: (k, w) :: m
    else if a = k then (a, v) :: m
    else (k, w) :: Memory.write m a v

/-- Writes a byte string at ascending offsets. -/
def Memory.writeList : Memory → Nat → List Byte → Memory
  | m, _, [] => m
  | m, a, v :: vs => Memory.writeList (Memory.write m a v) (a + 1) vs

/-- The canonical form: offsets strictly rising. (An unlisted offset is unwritten, which no listed
byte equals, so the form needs no second clause: log 5.) -/
abbrev Memory.wf (m : Memory) : Prop := m.Pairwise (fun c d => c.1 < d.1)

/-! ## Reads and writes of the buffer (R8) -/

/-- `B(a)`: the byte BUF[a]; where nothing has been written since reset, the free value (U1). -/
def State.byte (s : State) (a : Nat) : Byte :=
  match s.buf.read a with
  | some v => v
  | none => Config.bufInit s.epoch a

/-- `B(a) <- v`. -/
def State.setByte (s : State) (a : Nat) (v : Byte) : State := { s with buf := s.buf.write a v }

/-- `MemRead(a, n)`: the bytes BUF[a .. a+n-1]. -/
def State.memRead (s : State) (a n : Nat) : List Byte := (List.range' a n).map s.byte

/-- `MemWrite(a, n, v)` for a byte string v of n bytes. -/
def State.memWrite (s : State) (a : Nat) (v : List Byte) : State :=
  { s with buf := s.buf.writeList a v }

/-- `BE16(a)` = 256*BUF[a] + BUF[a+1] (R42). -/
def State.be16 (s : State) (a : Nat) : Half := (s.byte a ++ s.byte (a + 1) : BitVec (8 + 8))

/-- The two bytes of a 16-bit number in buffer order, the most significant first (R8, R42). -/
def be16Bytes (v : Half) : List Byte := [v.extractLsb' 8 8, v.extractLsb' 0 8]

/-- `BE16(a) <- v`: the most significant byte at the lower offset (R8, R42). -/
def State.setBe16 (s : State) (a : Nat) (v : Half) : State := s.memWrite a (be16Bytes v)

/-- Several byte strings written in order to a list of cells, each at its own offset. -/
def Memory.writeAll : Memory → List (Nat × List Byte) → Memory
  | m, [] => m
  | m, (a, v) :: ws => Memory.writeAll (Memory.writeList m a v) ws

/-- Several `MemWrite`s in order, with nothing read between them. -/
def State.memWrites (s : State) (ws : List (Nat × List Byte)) : State :=
  { s with buf := s.buf.writeAll ws }

/-- BUF_SIZE (R5). -/
abbrev State.bufSize (s : State) : Nat := s.params.bufSize

/-! ## The network interface (R12) -/

/-- The answer of `receiveFrame()` at this point: the next one waiting, "none" when there is none, and
"none" for an empty byte string, which is not a frame (R80). -/
def State.nextFrame (s : State) : Option Frame :=
  match s.rx with
  | some (b :: f) :: _ => some (b :: f)
  | _ => none

/-- The state after `receiveFrame()` has answered: the answer is consumed (R80, "A frame is consumed by
exactly one POLL"). -/
def State.dropAnswer (s : State) : State := { s with rx := s.rx.tail }

/-- `TX(n)`: hand BUF[0 .. n-1] to NI and log it (R36). It cannot fail. -/
def State.tx (s : State) (n : Nat) : State :=
  { s with txlog := s.txlog ++ [s.memRead 0 n], txlen := BitVec.ofNat 16 n }

/-! ## Early ends of a step (R180) -/

/-- `raise Drop(c)` (R183): the code, and nothing else. -/
def State.drop (s : State) (c : Disp) : State := s.setDisp c

/-- `raise Ignore(c)` (R184): "does exactly what rule R183 does with its own code". -/
def State.ignore (s : State) (c : Disp) : State := s.setDisp c

/-- `raise Refuse(c)` (R186): CMDERR, and nothing else. -/
def State.refuse (s : State) (c : CmdErr) : State := s.setCmderr c

/-- The enable gate of the command step (R165, R166): refused with DISABLED when EN = 0. -/
def State.whenEnabled (s : State) (run : State → State) : State :=
  if s.en then run s else s.refuse .disabled

/-- RESET (R200): every register and the log at the value of R37, every buffer byte unwritten and its
value unspecified anew. What belongs to the environment (parameters, inputs still to come, values
already returned to the host) stays (log 6). -/
def State.applyReset (s : State) : State :=
  { State.resetWith s.params with
    epoch := s.epoch + 1, host := s.host, rx := s.rx, reads := s.reads }

end Sys2Proof.Machine
end

