-- ==== Sys2Proof/Machine/Operands.lean ====
section
/-! DEFINITION. Every operand the block extracts from a frame (R68, R95), the register file by number
(R13), and what a read or a write of a register or of a buffer byte does (R38, R45, R96, R168 to R171). -/

namespace Sys2Proof.Machine

/-! ## Fields of the frame in the buffer (R68) -/

/-- EtherType, BE16(12). -/
def State.etherType (s : State) : Half := s.be16 12

/-- IPv6 version, B(14)[7:4]. -/
def State.ipVersion (s : State) : BitVec 4 := (s.byte 14).extractLsb' 4 4

/-- Traffic class, B(14)[3:0] ∥ B(15)[7:4] (R61). -/
def State.trafficClass (s : State) : Byte :=
  ((s.byte 14).extractLsb' 0 4 ++ (s.byte 15).extractLsb' 4 4 : BitVec (4 + 4))

/-- Flow label, B(15)[3:0] ∥ B(16) ∥ B(17) (R61). -/
def State.flowLabel (s : State) : BitVec 20 :=
  ((s.byte 15).extractLsb' 0 4 ++ s.byte 16 ++ s.byte 17 : BitVec (4 + 8 + 8))

/-- PLEN as an exact length, BE16(18) (R84: not reduced mod 2^16). -/
def State.plen (s : State) : Nat := (s.be16 18).toNat

/-- Next header, B(20). -/
def State.nextHeader (s : State) : Byte := s.byte 20

/-- ICMPv6 type, B(54). -/
def State.icmpType (s : State) : Byte := s.byte 54

/-- Neighbor Discovery target address, MemRead(62, 16). -/
def State.ndTarget (s : State) : List Byte := s.memRead 62 16

/-- `payload()` of R97: the PLEN bytes from offset 54. -/
def State.payload (s : State) : List Byte := s.memRead 54 s.plen

/-- The UDP data of R97, R98: the V_UPLEN = PLEN - 8 (mod 2^16, R96) bytes from offset 62. -/
def State.udpData (s : State) : List Byte := s.memRead 62 (s.be16 18 - 8).toNat

/-- R99: the host may take V_OPTMAC as the advertised MAC exactly when this holds. -/
def State.hasLinkOption (s : State) : Bool := decide (32 ≤ s.plen) && s.byte 78 == 2 && s.byte 79 == 1

/-! ## The register file (R13) -/

/-- The registers, R13's working registers and R96's view registers. -/
inductive Reg where
  | ctrl | cmd | status | rxlen | txlen | ckacc | ckres | hoplim | lmac | lip | lport | rmac | rip
  | rport | vDmac | vSmac | vEtype | vVer | vTc | vFlow | vPlen | vNh | vHlim | vSip | vDip | vPoff
  | vSport | vDport | vUlen | vUck | vUoff | vUplen | vItype | vIcode | vIck | vTgt | vOptt | vOptl
  | vOptmac
  deriving DecidableEq, Repr

/-- The working registers in number order, 0 to 13 (R13). -/
def workingRegs : List Reg :=
  [.ctrl, .cmd, .status, .rxlen, .txlen, .ckacc, .ckres, .hoplim, .lmac, .lip, .lport, .rmac, .rip,
    .rport]

/-- The view registers in number order, 16 to 40 (R96). -/
def viewRegs : List Reg :=
  [.vDmac, .vSmac, .vEtype, .vVer, .vTc, .vFlow, .vPlen, .vNh, .vHlim, .vSip, .vDip, .vPoff, .vSport,
    .vDport, .vUlen, .vUck, .vUoff, .vUplen, .vItype, .vIcode, .vIck, .vTgt, .vOptt, .vOptl, .vOptmac]

/-- The register of a number; none for the reserved numbers 14, 15 and above 40 (R13). -/
def regOf (n : Nat) : Option Reg := if n < 16 then workingRegs[n]? else viewRegs[n - 16]?

/-- A number register's value as an access carries it, zero-extended. -/
def numVal {w : Nat} (v : BitVec w) : RegVal := .num (v.setWidth 32)

/-- The MAC address in the buffer at an offset, MemRead(a, 6). -/
def State.macAt (s : State) (a : Nat) : Mac :=
  #v[s.byte a, s.byte (a + 1), s.byte (a + 2), s.byte (a + 3), s.byte (a + 4), s.byte (a + 5)]

/-- The IPv6 address in the buffer at an offset, MemRead(a, 16). -/
def State.ipAt (s : State) (a : Nat) : Ip :=
  #v[s.byte a, s.byte (a + 1), s.byte (a + 2), s.byte (a + 3), s.byte (a + 4), s.byte (a + 5),
    s.byte (a + 6), s.byte (a + 7), s.byte (a + 8), s.byte (a + 9), s.byte (a + 10), s.byte (a + 11),
    s.byte (a + 12), s.byte (a + 13), s.byte (a + 14), s.byte (a + 15)]

/-- What a read of a register returns (R13, R16, R96). -/
def State.readReg (s : State) : Reg → RegVal
  | .ctrl => numVal (ctrlBits s.en)
  | .cmd => numVal (0 : Word)
  | .status => numVal s.status.toBits
  | .rxlen => numVal s.rxlen
  | .txlen => numVal s.txlen
  | .ckacc => numVal s.ckacc
  | .ckres => numVal s.ckres
  | .hoplim => numVal s.hoplim
  | .lmac => .mac s.lmac
  | .lip => .ip s.lip
  | .lport => numVal s.lport
  | .rmac => .mac s.rmac
  | .rip => .ip s.rip
  | .rport => numVal s.rport
  | .vDmac => .mac (s.macAt 0)
  | .vSmac => .mac (s.macAt 6)
  | .vEtype => numVal (s.be16 12)
  | .vVer => numVal s.ipVersion
  | .vTc => numVal s.trafficClass
  | .vFlow => numVal s.flowLabel
  | .vPlen => numVal (s.be16 18)
  | .vNh => numVal (s.byte 20)
  | .vHlim => numVal (s.byte 21)
  | .vSip => .ip (s.ipAt 22)
  | .vDip => .ip (s.ipAt 38)
  | .vPoff => numVal (54 : Half)
  | .vSport => numVal (s.be16 54)
  | .vDport => numVal (s.be16 56)
  | .vUlen => numVal (s.be16 58)
  | .vUck => numVal (s.be16 60)
  | .vUoff => numVal (62 : Half)
  | .vUplen => numVal (s.be16 18 - 8)
  | .vItype => numVal (s.byte 54)
  | .vIcode => numVal (s.byte 55)
  | .vIck => numVal (s.be16 56)
  | .vTgt => .ip (s.ipAt 62)
  | .vOptt => numVal (s.byte 78)
  | .vOptl => numVal (s.byte 79)
  | .vOptmac => .mac (s.macAt 80)

/-- What a read by number returns: a reserved number reads 0 (R13). -/
def State.readNum (s : State) (n : Nat) : RegVal :=
  match regOf n with
  | some r => s.readReg r
  | none => numVal (0 : Word)

/-- A write of a register other than CMD (R13, R38, R168): a read/write register takes the whole value
at its width, CTRL takes bit 0, a read-only register (and a value of another kind, log 7) nothing. -/
def State.writeReg (s : State) (r : Reg) (v : RegVal) : State :=
  match r, v with
  | .ctrl, .num w => { s with en := w.getLsbD 0 }
  | .hoplim, .num w => { s with hoplim := w.setWidth 8 }
  | .lmac, .mac m => { s with lmac := m }
  | .lip, .ip a => { s with lip := a }
  | .lport, .num w => { s with lport := w.setWidth 16 }
  | .rmac, .mac m => { s with rmac := m }
  | .rip, .ip a => { s with rip := a }
  | .rport, .num w => { s with rport := w.setWidth 16 }
  | _, _ => s

/-- A write by number: a reserved number is written without effect (R13). -/
def State.writeNum (s : State) (n : Nat) (v : RegVal) : State :=
  match regOf n with
  | some r => s.writeReg r v
  | none => s

/-! ## Plain accesses (R169, R171) -/

/-- What a buffer read by the host returns: 0 at an offset at or above BUF_SIZE (R45). -/
def State.hostByte (s : State) (offset : Half) : Byte :=
  if offset.toNat < s.bufSize then s.byte offset.toNat else 0

/-- A buffer write by the host: nothing at an offset at or above BUF_SIZE (R45). -/
def State.hostSetByte (s : State) (offset : Half) (v : Byte) : State :=
  if offset.toNat < s.bufSize then s.setByte offset.toNat v else s

/-- A value returned to the host (R216; log 3). The block itself is unchanged by a read (R38). -/
def State.returned (s : State) (v : RegVal) : State := { s with reads := s.reads ++ [v] }

/-- An access that is no command step: reads return a value and change nothing else, writes store. -/
def State.plainAccess (s : State) : Access → State
  | .reset => s.applyReset
  | .rd n => s.returned (s.readNum n)
  | .wr n v => s.writeNum n v
  | .br a => s.returned (numVal (s.hostByte a))
  | .bw a v => s.hostSetByte a v

/-- The command word of an access that starts a command step: a write of a word to CMD, register 1
(R16, R165). -/
def Access.command : Access → Option Word
  | .wr n (.num w) => if regOf n = some .cmd then some w else none
  | .wr _ (.mac _) => none
  | .wr _ (.ip _) => none
  | .reset => none
  | .rd _ => none
  | .br _ => none
  | .bw _ _ => none

end Sys2Proof.Machine
end

