-- ==== Sys2Proof/Machine/Checksum.lean ====
section
/-! DEFINITION. The one's-complement checksum accumulator (42_checksum.md): the primitives of R110 to
R117 and the commands CKFILL and CKVFY (R119 to R121). Sums are exact natural numbers. -/

namespace Sys2Proof.Machine

/-! ## Primitives -/

/-- `words(b)` (R110): big-endian pairs, an odd trailing byte padded with a zero low byte. -/
def words : List Byte → List Nat
  | [] => []
  | [b] => [256 * b.toNat]
  | b :: c :: bs => (256 * b.toNat + c.toNat) :: words bs

/-- `WordSum(b)` (R110): the sum of all words. -/
def wordSum (b : List Byte) : Nat := (words b).sum

/-- The two checksummed upper layers, the values `nh` may take in R116. -/
inductive UpperLayer where
  | icmpv6 | udp
  deriving DecidableEq, Repr

/-- The next-header value (R5; marked general knowledge in the spec, log 13). -/
def UpperLayer.nh : UpperLayer → Byte
  | .icmpv6 => 58
  | .udp => 17

/-- `ckoff(nh)`: the buffer offset of the checksum field (R116). -/
def UpperLayer.ckoff : UpperLayer → Nat
  | .icmpv6 => 56
  | .udp => 60

/-- The least segment that holds the upper layer's header, so that the field lies in it (R116, R119). -/
def UpperLayer.minLen : UpperLayer → Nat
  | .icmpv6 => 4
  | .udp => 8

/-- The upper layer of a next-header value, if it is one of the two. -/
def upperLayer (nh : Byte) : Option UpperLayer :=
  if nh = UpperLayer.icmpv6.nh then some .icmpv6
  else if nh = UpperLayer.udp.nh then some .udp
  else none

/-- The segment bytes as R111 counts them: BUF[54 .. 54+n-1] with the checksum field as zero. -/
def State.segBytes (s : State) (n ckoff : Nat) : List Byte :=
  (List.range' 54 n).map fun a => if a = ckoff ∨ a = ckoff + 1 then 0 else s.byte a

/-- `SegSum(n, ckoff)` (R111). -/
def State.segSum (s : State) (n ckoff : Nat) : Nat := wordSum (s.segBytes n ckoff)

/-- `PseudoSum(nh, ullen)` (R114). -/
def State.pseudoSum (s : State) (nh : Byte) (ullen : Nat) : Nat :=
  wordSum (s.memRead 22 16) + wordSum (s.memRead 38 16) + ullen + nh.toNat

/-- The loop of `fold`, at most `fuel` rounds. -/
def foldLoop : (fuel s : Nat) → Nat
  | 0, s => s
  | fuel + 1, s => if 0xFFFF < s then foldLoop fuel (s % 65536 + s / 65536) else s

/-- `fold(s)` (R112): fold carries back into the low 16 bits until none remains. Each round makes the
number smaller, so `s` rounds are always enough. -/
def fold (s : Nat) : Nat := foldLoop s s

/-- `ckfinal(s)` (R115): the complement of the folded sum, with 0x0000 replaced by 0xFFFF. -/
def ckfinal (s : Nat) : Nat := if 0xFFFF - fold s = 0 then 0xFFFF else 0xFFFF - fold s

/-- The exact raw sum of a computation (R116). -/
def State.rawSum (s : State) (u : UpperLayer) (n : Nat) : Nat :=
  s.pseudoSum u.nh n + s.segSum n u.ckoff

/-- `Cksum(nh, n)` (R116): CKACC takes the raw sum, CKRES the final value, which is also the value
returned: the caller reads `ckres` of this state. -/
def State.cksum (s : State) (u : UpperLayer) (n : Nat) : State :=
  { s with
    ckacc := BitVec.ofNat 32 (s.rawSum u n)
    ckres := BitVec.ofNat 16 (ckfinal (s.rawSum u n)) }

/-- `BE16(ckoff(nh)) <- Cksum(nh, n)` (R120, R136, R139, R156, R158). -/
def State.fillCksum (s : State) (u : UpperLayer) (n : Nat) : State :=
  (s.cksum u n).setBe16 u.ckoff (s.cksum u n).ckres

/-- `Verify(nh, n)` (R117): compute with the field as zero and compare with the field received; CKOK is
the answer, which the caller reads from this state. -/
def State.verify (s : State) (u : UpperLayer) (n : Nat) : State :=
  (s.cksum u n).setCkok ((s.cksum u n).ckres == s.be16 u.ckoff)

/-! ## CKFILL and CKVFY -/

/-- The precondition of R119, with the upper layer it finds: 54 + PLEN <= BUF_SIZE, next header 58 or
17, and a segment long enough for its checksum field. -/
def State.checkable (s : State) : Option UpperLayer :=
  if 54 + s.plen ≤ s.bufSize then
    match upperLayer s.nextHeader with
    | some u => if u.minLen ≤ s.plen then some u else none
    | none => none
  else none

/-- A checksum command (R120, R121): BADFRAME unless R119 holds, else `run` and CMDERR = OK. -/
def State.onSegment (s : State) (run : UpperLayer → State) : State :=
  match s.checkable with
  | some u => (run u).setCmderr .ok
  | none => s.refuse .badframe

/-- CKFILL (R120). -/
def execCkfill (s : State) : Host.Outcome State Fault Refusal :=
  .next (s.whenEnabled fun s => s.onSegment fun u => s.fillCksum u s.plen)

/-- CKVFY (R121). -/
def execCkvfy (s : State) : Host.Outcome State Fault Refusal :=
  .next (s.whenEnabled fun s => s.onSegment fun u => s.verify u s.plen)

end Sys2Proof.Machine
end

