-- ==== Sys2Proof/Machine/Icmpv6.lean ====
section
/-! DEFINITION. ICMPv6 handling and the reply generator (43_icmpv6.md): R130 to R140. Each handler runs
inside a POLL step on the frame in the buffer, with PLEN its payload length. -/

namespace Sys2Proof.Machine

/-- `PrepareReply(ipsrc)` (R133): turn the frame in the buffer into the skeleton of a frame addressed
back to its sender. The sender's MAC and address are read before anything is written. -/
def State.prepareReply (s : State) (ipsrc : List Byte) : State :=
  s.memWrites
    [ (0, s.memRead 6 6),                    -- Ethernet destination <- sender's MAC
      (6, s.lmac.toList),                    -- Ethernet source <- own MAC
      (12, [0x86, 0xDD]),                    -- EtherType
      (14, [0x60, 0x00, 0x00, 0x00]),        -- version 6, traffic class 0, flow label 0
      (21, [s.hoplim]),                      -- hop limit <- configured default
      (38, s.memRead 22 16),                 -- IPv6 destination <- sender's address
      (22, ipsrc) ]                          -- IPv6 source

/-- The message R136 writes over a prepared reply: a Neighbor Advertisement for the target left in
place, with this block's MAC as target link-layer address option. -/
def State.buildNa (s : State) : State :=
  s.memWrites
    [ (18, be16Bytes 32),                    -- PLEN
      (20, [58]),                            -- next header
      (54, [136, 0]),                        -- type, code
      (58, [s.params.naFlags, 0, 0, 0]),     -- flags, reserved
      (78, [2, 1]),                          -- option type, length
      (80, s.lmac.toList) ]                  -- option value

/-- The answer to a Solicitation for LIP (R136): prepared reply, message, checksum, 86 bytes transmitted. -/
def State.nsReply (s : State) : State :=
  (((s.prepareReply s.lip.toList).buildNa.fillCksum .icmpv6 32).tx 86).setDisp .repliedNa

/-- `Ns(PLEN)` (R134 to R136): drop if too short for a target, ignore if the target is not LIP, else
answer with a Neighbor Advertisement. -/
def State.ns (s : State) (plen : Nat) : State :=
  if plen < 24 then s.drop .dropUlShort
  else if s.ndTarget ≠ s.lip.toList then s.ignore .ignNsTarget
  else s.nsReply

/-- `Na(PLEN)` (R138): drop if too short for a target, else deliver to the host. -/
def State.na (s : State) (plen : Nat) : State :=
  if plen < 24 then s.drop .dropUlShort
  else (s.setHold .na).setDisp .deliveredNa

/-- The message R139 writes over a prepared reply: an Echo Reply whose body is left in place. -/
def State.buildEcho (s : State) : State :=
  s.memWrites
    [ (20, [58]),                            -- next header
      (54, [129, 0]) ]                       -- type, code

/-- `Echo(PLEN)` (R139): answer with an Echo Reply of the same payload, from the request's destination. -/
def State.echo (s : State) (plen : Nat) : State :=
  (((s.prepareReply (s.memRead 38 16)).buildEcho.fillCksum .icmpv6 plen).tx (54 + plen)).setDisp
    .repliedEcho

/-- The checks every ICMPv6 message meets before its type is looked at (R131, R132): the common header,
then the checksum; a message that passes goes on to `handle`. -/
def State.icmpChecked (s : State) (plen : Nat) (handle : State → State) : State :=
  if plen < 4 then s.drop .dropUlShort
  else if (s.verify .icmpv6 plen).status.ckok = false then (s.verify .icmpv6 plen).drop .dropCksum
  else handle (s.verify .icmpv6 plen)

/-- The type dispatch of `Icmp6` (R130, R140). -/
def State.icmpDispatch (s : State) (plen : Nat) : State :=
  if s.icmpType = 135 then s.ns plen
  else if s.icmpType = 136 then s.na plen
  else if s.icmpType = 128 then s.echo plen
  else s.ignore .ignIcmpType

/-- `Icmp6(PLEN)` (R130). -/
def State.icmp6 (s : State) (plen : Nat) : State := s.icmpChecked plen fun s => s.icmpDispatch plen

end Sys2Proof.Machine
end

