-- ==== Sys2Proof/Machine/Udp.lean ====
section
/-! DEFINITION. UDP (44_udp.md): inbound validation and delivery (R150 to R154), and the commands UDPSEND
(R155, R156) and UDPREPLY (R157, R158). -/

namespace Sys2Proof.Machine

/-- `Udp(PLEN)` (R150 to R154). -/
def State.udp (s : State) (plen : Nat) : State :=
  if plen < 8 then s.drop .dropUlShort
  else if (s.be16 58).toNat ≠ plen then s.drop .dropUdpLen
  else if (s.verify .udp plen).status.ckok = false then (s.verify .udp plen).drop .dropCksum
  else ((s.verify .udp plen).setHold .udp).setDisp .deliveredUdp

/-- The fields both sends write alike (R156, R158): PLEN and UDP length are LEN + 8, next header UDP,
the ports. -/
def State.buildUdp (s : State) (len sport dport : Half) : State :=
  s.memWrites
    [ (18, be16Bytes (len + 8)),             -- IPv6 payload length
      (20, [17]),                            -- next header
      (54, be16Bytes sport),                 -- UDP source port
      (56, be16Bytes dport),                 -- UDP destination port
      (58, be16Bytes (len + 8)) ]            -- UDP length

/-- The end both sends share: the UDP checksum, the transmission of 62 + LEN bytes, HOLD and CMDERR. -/
def State.udpFinish (s : State) (len : Half) : State :=
  (((s.fillCksum .udp (len.toNat + 8)).tx (62 + len.toNat)).setHold .none).setCmderr .ok

/-- The other header fields of UDPSEND (R156): from this block to RMAC and RIP. -/
def State.prepareSend (s : State) : State :=
  s.memWrites
    [ (0, s.rmac.toList),                    -- Ethernet destination
      (6, s.lmac.toList),                    -- Ethernet source
      (12, [0x86, 0xDD]),                    -- EtherType
      (14, [0x60, 0x00, 0x00, 0x00]),        -- version 6, traffic class 0, flow label 0
      (21, [s.hoplim]),                      -- hop limit
      (22, s.lip.toList),                    -- IPv6 source
      (38, s.rip.toList) ]                   -- IPv6 destination

/-- UDPSEND once enabled (R155, R156). The writes R156 lists go to distinct offsets, so their order
among themselves does not show. -/
def State.udpsend (s : State) (len : Half) : State :=
  if s.bufSize - 62 < len.toNat then s.refuse .badlen
  else (s.prepareSend.buildUdp len s.lport s.rport).udpFinish len

/-- UDPREPLY once enabled (R157, R158): the held datagram's source port is read before it is
overwritten. -/
def State.udpreply (s : State) (len : Half) : State :=
  if s.status.hold ≠ .udp then s.refuse .noctx
  else if s.bufSize - 62 < len.toNat then s.refuse .badlen
  else ((s.prepareReply s.lip.toList).buildUdp len s.lport (s.be16 54)).udpFinish len

/-- UDPSEND (R156). -/
def execUdpsend (len : Half) (s : State) : Host.Outcome State Fault Refusal :=
  .next (s.whenEnabled fun s => s.udpsend len)

/-- UDPREPLY (R158). -/
def execUdpreply (len : Half) (s : State) : Host.Outcome State Fault Refusal :=
  .next (s.whenEnabled fun s => s.udpreply len)

end Sys2Proof.Machine
end

