-- ==== Sys2Proof/Machine/Parser.lean ====
section
/-! DEFINITION. The command POLL and the frame parser (40_parser.md), and the nine frame classes as
instructions: each is the rest of a POLL step whose received frame has that class (R55, R70; log 9). -/

namespace Sys2Proof.Machine

/-- The payload-length check (R84) and what follows it: an accepted frame goes on with its PLEN. The
comparison is on exact integers. -/
def State.accepted (s : State) (len : Nat) (handle : State → Nat → State) : State :=
  if len < 54 + s.plen then s.drop .dropLength else handle s s.plen

/-- The dispatch on the next-header byte (R86, R88). -/
def State.dispatch (s : State) (plen : Nat) : State :=
  if s.nextHeader = 58 then s.icmp6 plen
  else if s.nextHeader = 17 then s.udp plen
  else s.ignore .ignNh

/-- `Parse(L)` (R89). -/
def State.parse (s : State) (len : Nat) : State :=
  if len < 54 then s.drop .dropShort
  else if s.etherType ≠ 0x86DD then s.drop .dropEthertype
  else if s.ipVersion ≠ 6 then s.drop .dropVersion
  else s.accepted len State.dispatch

/-- Loading a received frame (R80, R53): BUF[0 .. L-1], RXLEN, and HOLD cleared. -/
def State.load (s : State) (f : Frame) : State :=
  ({ s.memWrite 0 f with rxlen := BitVec.ofNat 16 f.length } : State).setHold .none

/-- What POLL does with the frame it received (R80): CMDERR = OK; an oversize frame is lost without a
trace but its code; any other is loaded and goes on to `handle` with its length L. -/
def State.receive (s : State) (f : Frame) (handle : State → Nat → State) : State :=
  if s.bufSize < f.length then (s.setCmderr .ok).setDisp .dropOversize
  else handle ((s.setCmderr .ok).load f) f.length

/-- POLL once enabled (R80). -/
def State.poll (s : State) : State :=
  match s.nextFrame with
  | none => (s.dropAnswer.setCmderr .ok).setDisp .noframe
  | some f => s.dropAnswer.receive f State.parse

/-- POLL (R80). -/
def execPoll (s : State) : Host.Outcome State Fault Refusal := .next (s.whenEnabled State.poll)

/-! ## The frame classes -/

/-- F_SHORT (R81). -/
def execFShort (f : Frame) (s : State) : Host.Outcome State Fault Refusal :=
  .next (s.receive f fun s _ => s.drop .dropShort)

/-- F_NOT_IPV6 (R82). -/
def execFNotIpv6 (f : Frame) (s : State) : Host.Outcome State Fault Refusal :=
  .next (s.receive f fun s _ => s.drop .dropEthertype)

/-- F_BAD_VERSION (R83). -/
def execFBadVersion (f : Frame) (s : State) : Host.Outcome State Fault Refusal :=
  .next (s.receive f fun s _ => s.drop .dropVersion)

/-- F_OTHER_NH (R84, R88). -/
def execFOtherNh (f : Frame) (s : State) : Host.Outcome State Fault Refusal :=
  .next (s.receive f fun s len => s.accepted len fun s _ => s.ignore .ignNh)

/-- F_NS (R84, R130 to R136). -/
def execFNs (f : Frame) (s : State) : Host.Outcome State Fault Refusal :=
  .next (s.receive f fun s len => s.accepted len fun s plen => s.icmpChecked plen fun s => s.ns plen)

/-- F_NA (R84, R130 to R132, R138). -/
def execFNa (f : Frame) (s : State) : Host.Outcome State Fault Refusal :=
  .next (s.receive f fun s len => s.accepted len fun s plen => s.icmpChecked plen fun s => s.na plen)

/-- F_ECHO_REQ (R84, R130 to R132, R139). -/
def execFEchoReq (f : Frame) (s : State) : Host.Outcome State Fault Refusal :=
  .next (s.receive f fun s len =>
    s.accepted len fun s plen => s.icmpChecked plen fun s => s.echo plen)

/-- F_ICMP_OTHER (R84, R130 to R132, R140). -/
def execFIcmpOther (f : Frame) (s : State) : Host.Outcome State Fault Refusal :=
  .next (s.receive f fun s len =>
    s.accepted len fun s plen => s.icmpChecked plen fun s => s.ignore .ignIcmpType)

/-- F_UDP (R84, R150 to R154). -/
def execFUdp (f : Frame) (s : State) : Host.Outcome State Fault Refusal :=
  .next (s.receive f fun s len => s.accepted len fun s plen => s.udp plen)

end Sys2Proof.Machine
end

