-- ==== Sys2Proof/Machine/Control.lean ====
section
/-! DEFINITION. Control (45_control.md): the reserved command words, NOP and XMIT; where the next access
comes from; and how an instruction is placed there. -/

namespace Sys2Proof.Machine

/-- RESERVED_CMD (R59, R165): refused with BADOP whatever EN is. -/
def execReservedCmd (_w : Word) (s : State) : Host.Outcome State Fault Refusal :=
  .next (s.refuse .badop)

/-- NOP (R167): clears CMDERR, whatever EN is. -/
def execNop (s : State) : Host.Outcome State Fault Refusal := .next (s.setCmderr .ok)

/-- XMIT once enabled (R170): BADLEN below 14 or above BUF_SIZE, else transmit as it stands. -/
def State.xmit (s : State) (len : Half) : State :=
  if len.toNat < 14 ∨ s.bufSize < len.toNat then s.refuse .badlen
  else ((s.tx len.toNat).setHold .none).setCmderr .ok

/-- XMIT (R170). -/
def execXmit (len : Half) (s : State) : Host.Outcome State Fault Refusal :=
  .next (s.whenEnabled fun s => s.xmit len)

/-! ## The next host access -/

/-- What the next host access asks for (R10, R165, R169), with the state in which it has been taken. -/
inductive Fetched where
  /-- No access is pending. -/
  | idle
  /-- A read, a plain write or a reset. -/
  | plain (a : Access) (s : State)
  /-- A write to CMD: a command step. -/
  | command (w : Word) (s : State)
  deriving DecidableEq, Repr

/-- Takes the next host access. -/
def State.fetch (s : State) : Fetched :=
  match s.host with
  | [] => .idle
  | a :: rest =>
    match a.command with
    | some w => .command w { s with host := rest }
    | none => .plain a { s with host := rest }

/-- `s` with a write of `w` to CMD as the next host access. -/
def State.queueCommand (s : State) (w : Word) : State :=
  { s with host := .wr 1 (.num w) :: s.host }

/-- `s` with POLL as the next host access, the block enabled, and `f` as NI's next answer. -/
def State.queueFrame (s : State) (f : Frame) : State :=
  { (s.queueCommand 0x00000001) with en := true, rx := some f :: s.rx }

/-- `s` with an encoded instruction where the next step takes it (log 12). -/
def State.queueEncoding (s : State) : Encoding → State
  | .cmd w => s.queueCommand w
  | .frame f => s.queueFrame f

end Sys2Proof.Machine
end

