-- ==== Sys2Proof/Machine/Dispatch.lean ====
section
/-! DEFINITION. One meaning per constructor of Instr. -/

namespace Sys2Proof.Machine

def exec (i : Instr) (s : State) : Host.Outcome State Fault Refusal :=
  match i with
  | .nop => Sys2Proof.Machine.execNop s
  | .poll => Sys2Proof.Machine.execPoll s
  | .udpsend len => Sys2Proof.Machine.execUdpsend len s
  | .udpreply len => Sys2Proof.Machine.execUdpreply len s
  | .ckfill => Sys2Proof.Machine.execCkfill s
  | .ckvfy => Sys2Proof.Machine.execCkvfy s
  | .xmit len => Sys2Proof.Machine.execXmit len s
  | .reservedCmd w => Sys2Proof.Machine.execReservedCmd w s
  | .fShort f => Sys2Proof.Machine.execFShort f s
  | .fNs f => Sys2Proof.Machine.execFNs f s
  | .fNa f => Sys2Proof.Machine.execFNa f s
  | .fEchoReq f => Sys2Proof.Machine.execFEchoReq f s
  | .fUdp f => Sys2Proof.Machine.execFUdp f s
  | .fIcmpOther f => Sys2Proof.Machine.execFIcmpOther f s
  | .fOtherNh f => Sys2Proof.Machine.execFOtherNh f s
  | .fBadVersion f => Sys2Proof.Machine.execFBadVersion f s
  | .fNotIpv6 f => Sys2Proof.Machine.execFNotIpv6 f s

end Sys2Proof.Machine
end

