-- ==== Sys2Proof/Machine/Step.lean ====
section
/-! DEFINITION. One step: the next host access, taken whole (R6, R49). -/

namespace Sys2Proof.Machine

/-- One step of the machine: nothing when no host access is pending (log 2), the access itself when it
is plain, and the decoded command when it is a write to CMD (R165). -/
def step (s : State) : Host.Outcome State Fault Refusal :=
  match s.fetch with
  | .idle => .next s
  | .plain a s' => .next (s'.plainAccess a)
  | .command w s' => exec (decodeCmd w) s'

/-- `s` with the instruction of an opcode-table word where the next step takes it: a command word as the
next host access, a frame as NI's answer to a POLL that is the next host access (log 12). -/
def State.withFetchWord (s : State) (nbits w : Nat) : State := s.queueEncoding (tableEncoding nbits w)

end Sys2Proof.Machine
end

