-- ==== Sys2Proof/Safety.lean ====
section
/-! DEFINITION. The terms the claims use: what a run keeps (the invariants), what a step may not touch (the
frames), and what a header or a computed checksum looks like. -/

namespace Sys2Proof.Machine

/-! ## Invariants -/

/-- What holds at reset and after every step, whatever the host and NI do. -/
structure State.Inv (s : State) : Prop where
  /-- The buffer's cells are in canonical form. -/
  bufWf : s.buf.wf
  /-- Every written byte lies in BUF[0 .. BUF_SIZE-1] (R33, R45). -/
  bufIn : ∀ c ∈ s.buf, c.1 < s.bufSize
  /-- RXLEN is 0 or the length of a frame that fitted (R29). -/
  rxlenIn : s.rxlen.toNat ≤ s.bufSize
  /-- Every transmitted frame holds an Ethernet header and fitted the buffer (R36, R170). -/
  txlogIn : ∀ f ∈ s.txlog, 14 ≤ f.length ∧ f.length ≤ s.bufSize
  /-- TXLEN is the length of the last frame transmitted, 0 before the first (R30, R37). -/
  txlenLast : s.txlen.toNat = (s.txlog.getLast?.map List.length).getD 0
  /-- CKRES is the final value of CKACC's sum once anything was computed (R31, R32, R118 law 4). -/
  ckresOf : (s.ckacc = 0 ∧ s.ckres = 0) ∨
    (s.ckacc ≠ 0 ∧ s.ckres.toNat = ckfinal s.ckacc.toNat)
  /-- A held datagram came in a frame with room for the UDP header (R19, R151). -/
  holdUdp : s.status.hold = .udp → 62 ≤ s.rxlen.toNat
  /-- A held Advertisement came in a frame with room for its target (R19, R138). -/
  holdNa : s.status.hold = .na → 78 ≤ s.rxlen.toNat

/-- What the view shows of a held frame means what it says (R98): while HOLD = UDP the headers describe
a UDP datagram, while HOLD = NA a Neighbor Advertisement, inside the received frame. -/
structure State.HeldView (s : State) : Prop where
  udp : s.status.hold = .udp →
    s.etherType = 0x86DD ∧ s.ipVersion = 6 ∧ s.nextHeader = 17 ∧ 8 ≤ s.plen ∧
      (s.be16 58).toNat = s.plen ∧ 54 + s.plen ≤ s.rxlen.toNat
  na : s.status.hold = .na →
    s.etherType = 0x86DD ∧ s.ipVersion = 6 ∧ s.nextHeader = 58 ∧ s.icmpType = 136 ∧
      24 ≤ s.plen ∧ 54 + s.plen ≤ s.rxlen.toNat

/-! ## Frames of a step -/

/-- The fields that only a host write or a reset changes: CTRL, the configuration registers (R211), and
the environment's own: parameters, epoch, pending accesses, values returned. -/
structure SameConfig (s t : State) : Prop where
  en : t.en = s.en
  hoplim : t.hoplim = s.hoplim
  lmac : t.lmac = s.lmac
  lip : t.lip = s.lip
  lport : t.lport = s.lport
  rmac : t.rmac = s.rmac
  rip : t.rip = s.rip
  rport : t.rport = s.rport
  params : t.params = s.params
  epoch : t.epoch = s.epoch
  host : t.host = s.host
  reads : t.reads = s.reads

/-- `t` is `s` with frame `f` received, and nothing else but STATUS and the checksum results: BUF[0 .. L-1]
is the frame, the bytes above are as before (R53), RXLEN = L, CMDERR = OK, nothing transmitted. -/
structure ReceivedOnly (s t : State) (f : Frame) : Prop where
  bytes : ∀ a, t.byte a = if h : a < f.length then f[a] else s.byte a
  rxlen : t.rxlen.toNat = f.length
  cmderr : t.status.cmderr = .ok
  txlog : t.txlog = s.txlog
  txlen : t.txlen = s.txlen
  rx : t.rx = s.rx
  config : SameConfig s t

/-- CKACC and CKRES are those of the segment of `n` bytes that `t` holds (R116). -/
def Computed (t : State) (u : UpperLayer) (n : Nat) : Prop :=
  t.ckacc.toNat = t.rawSum u n ∧ t.ckres.toNat = ckfinal (t.rawSum u n)

/-- CKACC and CKRES are as before. -/
def NotComputed (s t : State) : Prop := t.ckacc = s.ckacc ∧ t.ckres = s.ckres

/-- The Ethernet and IPv6 header of every frame the block originates (R133, R156, D19), the two
destinations and the IPv6 source being given: PLEN and next header as arguments. -/
structure OriginatedHeader (t : State) (dmac : List Byte) (plen : Nat) (nh : Byte)
    (src dst : List Byte) : Prop where
  ethDst : t.memRead 0 6 = dmac
  ethSrc : t.memRead 6 6 = t.lmac.toList
  ethType : t.be16 12 = 0x86DD
  vtf : t.memRead 14 4 = [0x60, 0x00, 0x00, 0x00]
  plenField : (t.be16 18).toNat = plen
  nextHeader : t.byte 20 = nh
  hopLimit : t.byte 21 = t.hoplim
  ipSrc : t.memRead 22 16 = src
  ipDst : t.memRead 38 16 = dst

/-- `t` transmitted BUF[0 .. n-1] as it stands in `t`, once, and nothing else since `s` (R36). -/
def Transmitted (s t : State) (n : Nat) : Prop :=
  t.txlog = s.txlog ++ [t.memRead 0 n] ∧ t.txlen.toNat = n

/-- Nothing was transmitted. -/
def NotTransmitted (s t : State) : Prop := t.txlog = s.txlog ∧ t.txlen = s.txlen

end Sys2Proof.Machine
end

