-- ==== Sys2Proof/Certificates/Slice0/Obligations.lean ====
section
/-! DEFINITION. The statements for the provers, from the numbered rules of spec/. -/

open Sys2Proof Sys2Proof.Machine

/-! ## Encoding -/

/-- Decode and encode agree on every well-formed instruction: no bit of a command word is dropped, and the
table's mask-and-match rows, tried in their order, find the class that R70's tests define. -/
def Obligations.DecodeEncodeRoundTrip : Prop :=
  ∀ i : Instr, i.wf = true → decode (encode i) = .ok i

/-- Whatever decodes is well formed and encodes back to the same word or frame, so each has one meaning. -/
def Obligations.DecodedEncodesBack : Prop :=
  ∀ (e : Encoding) (i : Instr), decode e = .ok i → i.wf = true ∧ encode i = e

/-- R55, R70: the rows of the table tried in order and R70's procedure put every frame in the same class. That
the empty byte string is refused by name is the model's reading of R80, not R55's or R70's (log 11, DEDUCED);
that a 54-byte frame, which has no byte 54, is classed as if that byte were 0 is the model's choice
(log 10, DESIGN CHOICE). -/
def Obligations.FrameRowsAgreeWithClassTests : Prop :=
  (∀ f : Frame, f ≠ [] → decodeFrame f = .ok ((frameClass f).instr f)) ∧
    decodeFrame [] = .error .emptyFrame

/-- A few command words written out from R56 and R57 decode to the command they stand for. -/
def Obligations.WrittenOutWordsDecode : Prop :=
  decodeCmd 0x00000000 = .nop ∧ decodeCmd 0x00000001 = .poll ∧
    decodeCmd 0x00000502 = .udpsend 5 ∧ decodeCmd 0x00000203 = .udpreply 2 ∧
    decodeCmd 0x00000004 = .ckfill ∧ decodeCmd 0x00000005 = .ckvfy ∧
    decodeCmd 0x00005606 = .xmit 86 ∧ decodeCmd 0x00000007 = .reservedCmd 0x00000007

/-- R59: a word is refused with BADOP, and nothing else changes, when OP is above 6, or ZERO is not 0, or
LEN is not 0 where it must be; whatever EN is. No other word is reserved. -/
def Obligations.ReservedWordsAreRefused : Prop :=
  ∀ (w : Word) (s : State),
    (7 ≤ w.toNat % 256 ∨ w.toNat / 2 ^ 24 ≠ 0 ∨
        (w.toNat % 256 ∈ [0x00, 0x01, 0x04, 0x05] ∧ w.toNat / 256 % 65536 ≠ 0) ↔
      decodeCmd w = .reservedCmd w) ∧
    exec (.reservedCmd w) s = .next { s with status := { s.status with cmderr := .badop } }

/-! ## The step -/

/-- A write of a word to CMD, register 1, is a step of the decoded instruction, on the state in which that
access has been taken (R16, R165). -/
def Obligations.StepRunsDecodedCommand : Prop :=
  ∀ (s : State) (w : Word) (rest : List Access), s.host = .wr 1 (.num w) :: rest →
    step s = exec (decodeCmd w) { s with host := rest }

/-- Any access but a word written to CMD is taken by itself (R169, R171). That an address written to CMD is
such an access too is the model's choice of log 7 (DESIGN CHOICE; R169 read literally calls every write to
CMD a command step). With no access pending nothing happens, which is the model's choice of log 2. -/
def Obligations.StepTakesPlainAccess : Prop :=
  ∀ s : State,
    (∀ (a : Access) (rest : List Access), s.host = a :: rest → (∀ w, a ≠ .wr 1 (.num w)) →
      step s = .next (({ s with host := rest } : State).plainAccess a)) ∧
    (s.host = [] → step s = .next s)

/-- POLL, by R89's procedure over the loaded buffer, does to a received frame what the frame's class, as
the opcode table decodes it, says (R55, R80). -/
def Obligations.PollRunsTheFrameClass : Prop :=
  ∀ (s : State) (f : Frame) (rest : List (Option Frame)) (i : Instr),
    s.en = true → s.rx = some f :: rest → decodeFrame f = .ok i →
    exec .poll s = exec i { s with rx := rest }

/-- R180: no instruction and no step ends in a fault or a refusal of the model. -/
def Obligations.NothingStops : Prop :=
  (∀ (i : Instr) (s : State), ∃ t, exec i s = .next t) ∧ ∀ s : State, ∃ t, step s = .next t

/-! ## Invariants -/

/-- Every step keeps the invariant: the buffer's canonical form and bounds, the lengths of RXLEN, TXLEN and
every logged frame, the relation of CKRES to CKACC, the least length behind HOLD. -/
def Obligations.StepKeepsInv : Prop :=
  ∀ s t : State, s.Inv → step s = .next t → t.Inv

/-- While a frame is held, every step but a host write into BUF[0 .. 61] keeps the view meaning what it
says (R98, R209). -/
def Obligations.StepKeepsHeldView : Prop :=
  ∀ s t : State, s.HeldView → (∀ a v rest, s.host = .bw a v :: rest → 62 ≤ a.toNat) →
    step s = .next t → t.HeldView

/-- Both invariants hold after reset, for every BUF_SIZE and NA_FLAGS. -/
def Obligations.ResetHasInvariants : Prop :=
  ∀ p : Params, (State.resetWith p).Inv ∧ (State.resetWith p).HeldView

/-- R37: after reset CTRL, STATUS, RXLEN, TXLEN, CKACC, CKRES, HOPLIM, LPORT and RPORT read 0, the address
registers read all-zero bytes, TXLOG is empty, and every buffer byte is the free value of its offset. The
free value's name is the model's (log 5). -/
def Obligations.ResetValues : Prop :=
  ∀ p : Params,
    (∀ n ∈ [0, 1, 2, 3, 4, 5, 6, 7, 10, 13], (State.resetWith p).readNum n = .num 0) ∧
    (∀ n ∈ [8, 11], (State.resetWith p).readNum n = .mac (Vector.replicate 6 0)) ∧
    (∀ n ∈ [9, 12], (State.resetWith p).readNum n = .ip (Vector.replicate 16 0)) ∧
    (State.resetWith p).txlog = [] ∧ ∀ a, (State.resetWith p).byte a = Config.bufInit 0 a

/-- R200: RESET as an event of a run gives the reset state again, whatever came before, with the buffer
bytes unspecified anew; what is the environment's stays (the model's choice of log 6). -/
def Obligations.ResetEventResets : Prop :=
  ∀ (s : State) (rest : List Access), s.host = .reset :: rest →
    step s = .next { State.resetWith s.params with
      epoch := s.epoch + 1, host := rest, rx := s.rx, reads := s.reads }

/-! ## Commands: NOP, the enable gate, refusals -/

/-- R167: NOP is the word 0, sets CMDERR to OK whatever EN is and changes nothing else; with LEN or ZERO not
0 it is refused with BADOP. -/
def Obligations.NopClearsCmderr : Prop :=
  decodeCmd 0x00000000 = .nop ∧
  ∀ s : State,
    exec .nop s = .next { s with status := { s.status with cmderr := .ok } } ∧
    ∀ w : Word, w.toNat % 256 = 0 → w ≠ 0 →
      exec (decodeCmd w) s = .next { s with status := { s.status with cmderr := .badop } }

/-- R166: with EN = 0 every command but NOP is refused with DISABLED and nothing else changes; in particular
POLL consumes no frame. -/
def Obligations.DisabledRefusesCommands : Prop :=
  ∀ (s : State) (len : Half), s.en = false →
    ∀ i ∈ [Instr.poll, .udpsend len, .udpreply len, .ckfill, .ckvfy, .xmit len],
      exec i s = .next { s with status := { s.status with cmderr := .disabled } }

/-- R186: a command step that ends with a CMDERR other than OK changed nothing else; and CMDERR does not
latch: no command step depends on its old value. -/
def Obligations.RefusalChangesOnlyCmderr : Prop :=
  ∀ (w : Word) (s : State),
    (∀ t, exec (decodeCmd w) s = .next t → t.status.cmderr ≠ .ok →
      t = { s with status := { s.status with cmderr := t.status.cmderr } }) ∧
    ∀ e : CmdErr,
      exec (decodeCmd w) { s with status := { s.status with cmderr := e } } = exec (decodeCmd w) s

/-- R189 with R119, R155, R157, R170: the one code a command step leaves: BADOP, then DISABLED, then the
command's own tests, NOCTX before BADLEN for UDPREPLY. -/
def Obligations.RefusalOrder : Prop :=
  ∀ (w : Word) (s t : State), exec (decodeCmd w) s = .next t →
    t.status.cmderr =
      (let op := w.toNat % 256
       let len := w.toNat / 256 % 65536
       if 7 ≤ op ∨ w.toNat / 2 ^ 24 ≠ 0 ∨ (op ∈ [0x00, 0x01, 0x04, 0x05] ∧ len ≠ 0) then .badop
       else if s.en = false ∧ op ≠ 0 then .disabled
       else if op = 2 then (if len > s.bufSize - 62 then .badlen else .ok)
       else if op = 3 then
         (if s.status.hold ≠ .udp then .noctx else if len > s.bufSize - 62 then .badlen else .ok)
       else if op = 4 ∨ op = 5 then
         (if 54 + (s.be16 18).toNat ≤ s.bufSize ∧
             ((s.byte 20 = 58 ∧ 4 ≤ (s.be16 18).toNat) ∨ (s.byte 20 = 17 ∧ 8 ≤ (s.be16 18).toNat))
          then .ok else .badframe)
       else if op = 6 then (if len < 14 ∨ len > s.bufSize then .badlen else .ok)
       else .ok)

/-- R170: an enabled XMIT with 14 <= LEN <= BUF_SIZE logs BUF[0 .. LEN-1] as it stands, sets TXLEN, clears
HOLD, and changes nothing else; with another LEN it is refused with BADLEN. -/
def Obligations.XmitTransmitsAsItStands : Prop :=
  ∀ (s : State) (len : Half), s.en = true →
    (14 ≤ len.toNat → len.toNat ≤ s.bufSize →
      exec (.xmit len) s = .next { s with
        txlog := s.txlog ++ [s.memRead 0 len.toNat]
        txlen := len
        status := { s.status with hold := .none, cmderr := .ok } }) ∧
    (len.toNat < 14 ∨ s.bufSize < len.toNat →
      exec (.xmit len) s = .next { s with status := { s.status with cmderr := .badlen } })

/-! ## The checksum unit -/

/-- R110: cut into big-endian pairs, the number of words is ceil(n/2), word k is 256*b[2k] + b[2k+1] with a
missing last byte as zero, and the sum of all words weighs each byte by 256 at an even position and 1 at
an odd one; the rule's example. -/
def Obligations.WordsAreBigEndianPairs : Prop :=
  ∀ b : List Byte,
    (words b).length = (b.length + 1) / 2 ∧
    (∀ k, k < (words b).length →
      (words b)[k]? = some (256 * (b.getD (2 * k) 0).toNat + (b.getD (2 * k + 1) 0).toNat)) ∧
    wordSum b = (words b).sum ∧
    wordSum b = ∑ i : Fin b.length, b[i].toNat * (if i.val % 2 = 0 then 256 else 1) ∧
    words [0x01, 0x02, 0x03] = [0x0102, 0x0300] ∧ wordSum [0x01, 0x02, 0x03] = 0x0402

/-- R112: fold is its loop; below 2^32 two rounds are enough; the result fits 16 bits, is 0 only for 0, and
for a positive number is the member of 1..0xFFFF congruent to it modulo 65535; the rule's examples. -/
def Obligations.FoldIsResidue : Prop :=
  (∀ s, fold s = if s > 0xFFFF then fold (s % 65536 + s / 65536) else s) ∧
  (∀ s, s < 2 ^ 32 →
    (s % 65536 + s / 65536) % 65536 + (s % 65536 + s / 65536) / 65536 ≤ 0xFFFF) ∧
  (∀ s, fold s ≤ 0xFFFF ∧ (fold s = 0 ↔ s = 0) ∧ fold s % 65535 = s % 65535) ∧
  fold 0x1FFFE = 0xFFFF ∧ fold 0x2FFFD = 0xFFFF ∧ fold 0xFFFF0001 = 0x0001 ∧ fold 0x6E9F9 = 0xE9FF

/-- R115: the final checksum is the complement of the folded sum with 0x0000 replaced by 0xFFFF; never zero,
and 0xFFFF exactly when the folded sum is 0xFFFF or 0; every computation of the block ends with it; the
rule's examples. -/
def Obligations.FinalChecksumFixUp : Prop :=
  (∀ s, ckfinal s = if 0xFFFF - fold s = 0 then 0xFFFF else 0xFFFF - fold s) ∧
  (∀ s, ckfinal s ≠ 0 ∧ ckfinal s ≤ 0xFFFF ∧
    (ckfinal s = 0xFFFF ↔ fold s = 0xFFFF ∨ fold s = 0)) ∧
  (∀ (s : State) (u : UpperLayer) (n : Nat), (s.cksum u n).ckres.toNat = ckfinal (s.rawSum u n)) ∧
  ckfinal 0x1234 = 0xEDCB ∧ ckfinal 0xFFFF = 0xFFFF ∧ ckfinal 0x1FFFE = 0xFFFF ∧ ckfinal 0 = 0xFFFF ∧
  ckfinal 0x6E9F9 = 0x1600

/-- R111, R114, R116: the raw sum of a computation, byte by byte: the two addresses, each byte weighed by 256
at an even position and 1 at an odd one, plus the length, plus the next-header value 58 or 17, plus the
segment's bytes weighed by their position from offset 54, the two bytes of the checksum field (56 and 57,
or 60 and 61) as zero. R113: for any segment that lies in the buffer it is at most 2148565230, below 2^32,
so CKACC holds it exactly. -/
def Obligations.AccumulatorIsExact : Prop :=
  (∀ (s : State) (n : Nat),
    s.rawSum .icmpv6 n =
      ∑ i ∈ Finset.range 16, (s.byte (22 + i)).toNat * (if i % 2 = 0 then 256 else 1) +
      ∑ i ∈ Finset.range 16, (s.byte (38 + i)).toNat * (if i % 2 = 0 then 256 else 1) + n + 58 +
      ∑ i ∈ Finset.range n, (if 54 + i = 56 ∨ 54 + i = 57 then 0 else (s.byte (54 + i)).toNat) *
        (if i % 2 = 0 then 256 else 1)) ∧
  (∀ (s : State) (n : Nat),
    s.rawSum .udp n =
      ∑ i ∈ Finset.range 16, (s.byte (22 + i)).toNat * (if i % 2 = 0 then 256 else 1) +
      ∑ i ∈ Finset.range 16, (s.byte (38 + i)).toNat * (if i % 2 = 0 then 256 else 1) + n + 17 +
      ∑ i ∈ Finset.range n, (if 54 + i = 60 ∨ 54 + i = 61 then 0 else (s.byte (54 + i)).toNat) *
        (if i % 2 = 0 then 256 else 1)) ∧
  ∀ (s : State) (u : UpperLayer) (n : Nat), 54 + n ≤ s.bufSize →
    s.rawSum u n ≤ 2148565230 ∧ (s.cksum u n).ckacc.toNat = s.rawSum u n

/-- R113: adding each word with its carry back at once gives the same folded value as folding the exact sum
at the end. -/
def Obligations.EndAroundCarryAgrees : Prop :=
  ∀ ws : List Nat, ws.foldl (fun acc w => fold (acc + w)) 0 = fold ws.sum

/-- R118, law 5: changing one byte of the addresses, or of the segment outside the checksum field, changes
the checksum. -/
def Obligations.SingleByteChangeDetected : Prop :=
  ∀ (s : State) (u : UpperLayer) (n a : Nat) (v : Byte),
    22 ≤ a → a < 54 + n → a ≠ u.ckoff → a ≠ u.ckoff + 1 → v ≠ s.byte a →
    ((s.setByte a v).cksum u n).ckres ≠ (s.cksum u n).ckres

/-- R117: verification leaves the buffer alone, matches exactly when the received field is the recomputed
checksum, and never on a received 0x0000. -/
def Obligations.VerifyComparesField : Prop :=
  ∀ (s : State) (u : UpperLayer) (n : Nat),
    (s.verify u n).buf = s.buf ∧
    ((s.verify u n).status.ckok = true ↔ (s.be16 u.ckoff).toNat = ckfinal (s.rawSum u n)) ∧
    (s.be16 u.ckoff = 0 → (s.verify u n).status.ckok = false)

/-- R120: an enabled CKFILL on a checksummable segment stores the checksum in its field, shows the
computation in CKACC and CKRES, sets CMDERR to OK, and changes nothing else. -/
def Obligations.CkfillStoresChecksum : Prop :=
  ∀ (s : State) (u : UpperLayer), s.en = true → 54 + s.plen ≤ s.bufSize →
    s.nextHeader = u.nh → u.minLen ≤ s.plen →
    ∃ t, exec .ckfill s = .next t ∧ Computed t u s.plen ∧ t.be16 u.ckoff = t.ckres ∧
      (∀ a, a ≠ u.ckoff → a ≠ u.ckoff + 1 → t.byte a = s.byte a) ∧
      t.status = { s.status with cmderr := .ok } ∧ t.rxlen = s.rxlen ∧ t.rx = s.rx ∧
      NotTransmitted s t ∧ SameConfig s t

/-- R121: an enabled CKVFY on a checksummable segment sets CKOK to whether the field is the recomputed
checksum, shows the computation, sets CMDERR to OK, and changes nothing else. -/
def Obligations.CkvfySetsCkok : Prop :=
  ∀ (s : State) (u : UpperLayer), s.en = true → 54 + s.plen ≤ s.bufSize →
    s.nextHeader = u.nh → u.minLen ≤ s.plen →
    ∃ t, exec .ckvfy s = .next t ∧ Computed t u s.plen ∧ t.buf = s.buf ∧
      t.status = { s.status with ckok := decide (s.be16 u.ckoff = t.ckres), cmderr := .ok } ∧
      t.rxlen = s.rxlen ∧ t.rx = s.rx ∧ NotTransmitted s t ∧ SameConfig s t

/-- R118, law 3: after a CKFILL that ran, CKVFY gives CKOK = 1 and the same CKACC and CKRES. -/
def Obligations.CkfillThenCkvfyMatches : Prop :=
  ∀ s t : State, s.en = true → exec .ckfill s = .next t → t.status.cmderr = .ok →
    ∃ r, exec .ckvfy t = .next r ∧ r.status.ckok = true ∧ r.ckacc = t.ckacc ∧ r.ckres = t.ckres

/-! ## UDPSEND and UDPREPLY -/

/-- R156: an enabled UDPSEND with LEN <= BUF_SIZE - 62 writes every header byte 0 to 61 as the rule lists it,
leaves the payload and everything above, transmits 62 + LEN bytes, clears HOLD, and leaves every other
register. -/
def Obligations.UdpsendBuildsDatagram : Prop :=
  ∀ (s : State) (len : Half), s.en = true → len.toNat ≤ s.bufSize - 62 →
    ∃ t, exec (.udpsend len) s = .next t ∧
      OriginatedHeader t s.rmac.toList (len.toNat + 8) 17 s.lip.toList s.rip.toList ∧
      t.be16 54 = s.lport ∧ t.be16 56 = s.rport ∧ (t.be16 58).toNat = len.toNat + 8 ∧
      t.be16 60 = t.ckres ∧ (∀ a, 62 ≤ a → t.byte a = s.byte a) ∧
      Computed t .udp (len.toNat + 8) ∧ Transmitted s t (62 + len.toNat) ∧
      t.status = { s.status with hold := .none, cmderr := .ok } ∧
      t.rxlen = s.rxlen ∧ t.rx = s.rx ∧ SameConfig s t

/-- R158: an enabled UDPREPLY with HOLD = UDP and LEN <= BUF_SIZE - 62 answers to the MAC, address and port
the buffer held as the sender's, from LMAC, LIP and LPORT, and leaves RMAC, RIP, RPORT and every other
register. -/
def Obligations.UdpreplyAnswersSender : Prop :=
  ∀ (s : State) (len : Half), s.en = true → s.status.hold = .udp → len.toNat ≤ s.bufSize - 62 →
    ∃ t, exec (.udpreply len) s = .next t ∧
      OriginatedHeader t (s.memRead 6 6) (len.toNat + 8) 17 s.lip.toList (s.memRead 22 16) ∧
      t.be16 54 = s.lport ∧ t.be16 56 = s.be16 54 ∧ (t.be16 58).toNat = len.toNat + 8 ∧
      t.be16 60 = t.ckres ∧ (∀ a, 62 ≤ a → t.byte a = s.byte a) ∧
      Computed t .udp (len.toNat + 8) ∧ Transmitted s t (62 + len.toNat) ∧
      t.status = { s.status with hold := .none, cmderr := .ok } ∧
      t.rxlen = s.rxlen ∧ t.rx = s.rx ∧ SameConfig s t

/-- "only one reply per received datagram" (R158): after a UDPREPLY (R158) or a UDPSEND (R156) that ran, HOLD
is NONE, so a UDPREPLY is refused with NOCTX (R157). -/
def Obligations.SecondReplyHasNoContext : Prop :=
  ∀ (s t : State) (len len' : Half) (i : Instr), i = .udpreply len ∨ i = .udpsend len →
    s.en = true → exec i s = .next t → t.status.cmderr = .ok →
    exec (.udpreply len') t = .next { t with status := { t.status with cmderr := .noctx } }

/-- R161: a frame that UDPSEND or UDPREPLY transmitted, received by any enabled block it fits, is delivered
with a verifying checksum, its payload intact, and nothing is transmitted in answer. -/
def Obligations.SentDatagramIsDelivered : Prop :=
  ∀ (s t p : State) (i : Instr) (len : Half) (f : Frame) (rest : List (Option Frame)),
    i = .udpsend len ∨ i = .udpreply len → exec i s = .next t → t.txlog = s.txlog ++ [f] →
    p.en = true → f.length ≤ p.bufSize → p.rx = some f :: rest →
    ∃ q, exec .poll p = .next q ∧ q.status.disp = .deliveredUdp ∧ q.status.hold = .udp ∧
      q.status.ckok = true ∧ q.memRead 62 len.toNat = s.memRead 62 len.toNat ∧ NotTransmitted p q

/-! ## POLL -/

/-- R80: an enabled POLL that NI answers with "none" sets DISP to NOFRAME and CMDERR to OK, consumes the answer,
and changes nothing else. That no answer waiting counts as "none" is the model's choice of log 1 (DESIGN
CHOICE), and that an empty byte string does is its reading of R80 (log 11, DEDUCED). -/
def Obligations.PollWithoutFrame : Prop :=
  ∀ s : State, s.en = true → s.rx.head? = none ∨ s.rx.head? = some none ∨ s.rx.head? = some (some []) →
    exec .poll s = .next { s with
      rx := s.rx.tail, status := { s.status with disp := .noframe, cmderr := .ok } }

/-- R80: an oversize frame is consumed and lost: DISP and CMDERR are written and nothing else changes, not
the buffer, RXLEN, HOLD or CKOK. -/
def Obligations.OversizeFrameIsLost : Prop :=
  ∀ (s : State) (f : Frame) (rest : List (Option Frame)),
    s.en = true → s.rx = some f :: rest → s.bufSize < f.length →
    exec .poll s = .next { s with
      rx := rest, status := { s.status with disp := .dropOversize, cmderr := .ok } }

/-- R91 (3): an enabled POLL always ends with CMDERR = OK. It takes one answer of NI (R80) and keeps CTRL and
every configuration register, which only the host writes (R38, R211). -/
def Obligations.PollAlwaysEndsOk : Prop :=
  ∀ s : State, s.en = true →
    ∃ t, exec .poll s = .next t ∧ t.status.cmderr = .ok ∧ t.rx = s.rx.tail ∧ SameConfig s t

/-- R81, R82, R83, with POLL: a frame shorter than 54 bytes is dropped whatever its bytes are; a longer one
whose bytes 12, 13 are not 86 dd is dropped; one past both tests whose byte 14 does not begin with 6 is
dropped. The frame stands in the buffer, nothing is held, computed or transmitted. -/
def Obligations.HeaderTestsDrop : Prop :=
  ∀ (s : State) (f : Frame) (rest : List (Option Frame)),
    s.en = true → s.rx = some f :: rest → 0 < f.length → f.length ≤ s.bufSize →
    ∀ c : Disp,
      ((f.length < 54 ∧ c = .dropShort) ∨
       (54 ≤ f.length ∧ ¬ (f[12]? = some 0x86 ∧ f[13]? = some 0xDD) ∧ c = .dropEthertype) ∨
       (54 ≤ f.length ∧ (f[12]? = some 0x86 ∧ f[13]? = some 0xDD) ∧
        (∃ b, f[14]? = some b ∧ b.toNat / 16 ≠ 6) ∧ c = .dropVersion)) →
      ∃ t, exec .poll s = .next t ∧ ReceivedOnly { s with rx := rest } t f ∧
        t.status = ⟨c, .none, s.status.ckok, .ok⟩ ∧ NotComputed s t

/-- R81, R82, R83, R88: the classes that end without looking at the payload complete so, for every frame of
the class that fits (and, for F_OTHER_NH, passes R84): received, its code in DISP, nothing held, computed
or transmitted. -/
def Obligations.HeaderClassesComplete : Prop :=
  ∀ (s : State) (f : Frame), f.length ≤ s.bufSize → ∀ (i : Instr) (c : Disp),
    ((i = .fShort f ∧ c = .dropShort) ∨ (i = .fNotIpv6 f ∧ c = .dropEthertype) ∨
     (i = .fBadVersion f ∧ c = .dropVersion) ∨
     (i = .fOtherNh f ∧ 54 + (s.load f).plen ≤ f.length ∧ c = .ignNh)) →
    ∃ t, exec i s = .next t ∧ ReceivedOnly s t f ∧
      t.status = ⟨c, .none, s.status.ckok, .ok⟩ ∧ NotComputed s t

/-- R84: every class past the version test is dropped with DROP_LENGTH when 54 + PLEN exceeds L, as exact
integers; the payload is not looked at. -/
def Obligations.LengthCheckDrops : Prop :=
  ∀ (s : State) (f : Frame), f.length ≤ s.bufSize → f.length < 54 + (s.load f).plen →
    ∀ i ∈ [Instr.fNs f, .fNa f, .fEchoReq f, .fIcmpOther f, .fUdp f, .fOtherNh f],
      ∃ t, exec i s = .next t ∧ ReceivedOnly s t f ∧
        t.status = ⟨.dropLength, .none, s.status.ckok, .ok⟩ ∧ NotComputed s t

/-- R131, R132: every ICMPv6 class drops a message with PLEN < 4 uncomputed, and one whose checksum does not
verify with CKOK = 0 and the block's own computation left in CKACC and CKRES. -/
def Obligations.IcmpEntryDrops : Prop :=
  ∀ (s : State) (f : Frame), f.length ≤ s.bufSize → 54 + (s.load f).plen ≤ f.length →
    ∀ i ∈ [Instr.fNs f, .fNa f, .fEchoReq f, .fIcmpOther f],
      ((s.load f).plen < 4 →
        ∃ t, exec i s = .next t ∧ ReceivedOnly s t f ∧
          t.status = ⟨.dropUlShort, .none, s.status.ckok, .ok⟩ ∧ NotComputed s t) ∧
      (4 ≤ (s.load f).plen →
        ((s.load f).be16 56).toNat ≠ ckfinal ((s.load f).rawSum .icmpv6 (s.load f).plen) →
        ∃ t, exec i s = .next t ∧ ReceivedOnly s t f ∧
          t.status = ⟨.dropCksum, .none, false, .ok⟩ ∧ Computed t .icmpv6 (s.load f).plen)

/-- R134, R135, R138: a verified Solicitation or Advertisement with PLEN < 24 is dropped, a verified
Solicitation for another target is ignored; CKOK = 1 and the computation is left. -/
def Obligations.NeighborChecks : Prop :=
  ∀ (s : State) (f : Frame), f.length ≤ s.bufSize → 54 + (s.load f).plen ≤ f.length →
    4 ≤ (s.load f).plen →
    ((s.load f).be16 56).toNat = ckfinal ((s.load f).rawSum .icmpv6 (s.load f).plen) →
    ∀ (i : Instr) (c : Disp),
      (((i = .fNs f ∨ i = .fNa f) ∧ (s.load f).plen < 24 ∧ c = .dropUlShort) ∨
       (i = .fNs f ∧ 24 ≤ (s.load f).plen ∧ (s.load f).ndTarget ≠ s.lip.toList ∧
        c = .ignNsTarget)) →
      ∃ t, exec i s = .next t ∧ ReceivedOnly s t f ∧ t.status = ⟨c, .none, true, .ok⟩ ∧
        Computed t .icmpv6 (s.load f).plen

/-- R138, R140: a verified Advertisement that can hold a target is delivered with HOLD = NA, and a verified
message of another type is ignored; nothing is transmitted. -/
def Obligations.IcmpDeliveredOrIgnored : Prop :=
  ∀ (s : State) (f : Frame), f.length ≤ s.bufSize → 54 + (s.load f).plen ≤ f.length →
    4 ≤ (s.load f).plen →
    ((s.load f).be16 56).toNat = ckfinal ((s.load f).rawSum .icmpv6 (s.load f).plen) →
    (24 ≤ (s.load f).plen →
      ∃ t, exec (.fNa f) s = .next t ∧ ReceivedOnly s t f ∧
        t.status = ⟨.deliveredNa, .na, true, .ok⟩ ∧ Computed t .icmpv6 (s.load f).plen) ∧
    (∃ t, exec (.fIcmpOther f) s = .next t ∧ ReceivedOnly s t f ∧
      t.status = ⟨.ignIcmpType, .none, true, .ok⟩ ∧ Computed t .icmpv6 (s.load f).plen)

/-- R136: a verified Solicitation for LIP is answered with the 86-byte Neighbor Advertisement of the rule, in
the same step: every byte 0 to 85 as listed, the bytes above left, one frame transmitted. -/
def Obligations.SolicitationIsAnswered : Prop :=
  ∀ (s : State) (f : Frame), f.length ≤ s.bufSize → 54 + (s.load f).plen ≤ f.length →
    24 ≤ (s.load f).plen →
    ((s.load f).be16 56).toNat = ckfinal ((s.load f).rawSum .icmpv6 (s.load f).plen) →
    (s.load f).ndTarget = s.lip.toList →
    ∃ t, exec (.fNs f) s = .next t ∧
      OriginatedHeader t ((s.load f).memRead 6 6) 32 58 s.lip.toList ((s.load f).memRead 22 16) ∧
      t.memRead 54 2 = [136, 0] ∧ t.be16 56 = t.ckres ∧
      t.memRead 58 4 = [s.params.naFlags, 0, 0, 0] ∧ t.memRead 62 16 = s.lip.toList ∧
      t.memRead 78 2 = [2, 1] ∧ t.memRead 80 6 = s.lmac.toList ∧
      (∀ a, 86 ≤ a → t.byte a = (s.load f).byte a) ∧
      Computed t .icmpv6 32 ∧ Transmitted s t 86 ∧ t.rxlen.toNat = f.length ∧
      t.status = ⟨.repliedNa, .none, true, .ok⟩ ∧ t.rx = s.rx ∧ SameConfig s t

/-- R139: a verified Echo Request is answered with an Echo Reply of 54 + PLEN bytes: addresses swapped (the
Ethernet source is LMAC), type 129, code 0, the same PLEN, body and trailing bytes, a new checksum. -/
def Obligations.EchoIsAnswered : Prop :=
  ∀ (s : State) (f : Frame), f.length ≤ s.bufSize → 54 + (s.load f).plen ≤ f.length →
    4 ≤ (s.load f).plen →
    ((s.load f).be16 56).toNat = ckfinal ((s.load f).rawSum .icmpv6 (s.load f).plen) →
    ∃ t, exec (.fEchoReq f) s = .next t ∧
      OriginatedHeader t ((s.load f).memRead 6 6) (s.load f).plen 58 ((s.load f).memRead 38 16)
        ((s.load f).memRead 22 16) ∧
      t.memRead 54 2 = [129, 0] ∧ t.be16 56 = t.ckres ∧
      (∀ a, 58 ≤ a → t.byte a = (s.load f).byte a) ∧
      Computed t .icmpv6 (s.load f).plen ∧ Transmitted s t (54 + (s.load f).plen) ∧
      t.rxlen.toNat = f.length ∧
      t.status = ⟨.repliedEcho, .none, true, .ok⟩ ∧ t.rx = s.rx ∧ SameConfig s t

/-- R151, R152, R153: a UDP frame with PLEN < 8, then one whose UDP length is not PLEN, is dropped
uncomputed; then one whose checksum does not verify, with CKOK = 0. -/
def Obligations.UdpChecksDrop : Prop :=
  ∀ (s : State) (f : Frame), f.length ≤ s.bufSize → 54 + (s.load f).plen ≤ f.length →
    ((s.load f).plen < 8 →
      ∃ t, exec (.fUdp f) s = .next t ∧ ReceivedOnly s t f ∧
        t.status = ⟨.dropUlShort, .none, s.status.ckok, .ok⟩ ∧ NotComputed s t) ∧
    (8 ≤ (s.load f).plen → ((s.load f).be16 58).toNat ≠ (s.load f).plen →
      ∃ t, exec (.fUdp f) s = .next t ∧ ReceivedOnly s t f ∧
        t.status = ⟨.dropUdpLen, .none, s.status.ckok, .ok⟩ ∧ NotComputed s t) ∧
    (8 ≤ (s.load f).plen → ((s.load f).be16 58).toNat = (s.load f).plen →
      ((s.load f).be16 60).toNat ≠ ckfinal ((s.load f).rawSum .udp (s.load f).plen) →
      ∃ t, exec (.fUdp f) s = .next t ∧ ReceivedOnly s t f ∧
        t.status = ⟨.dropCksum, .none, false, .ok⟩ ∧ Computed t .udp (s.load f).plen)

/-- R154: a UDP frame that passes R151 to R153 is left in the buffer and delivered with HOLD = UDP,
whatever its ports and addresses are; nothing is transmitted. -/
def Obligations.DatagramIsDelivered : Prop :=
  ∀ (s : State) (f : Frame), f.length ≤ s.bufSize → 54 + (s.load f).plen ≤ f.length →
    8 ≤ (s.load f).plen → ((s.load f).be16 58).toNat = (s.load f).plen →
    ((s.load f).be16 60).toNat = ckfinal ((s.load f).rawSum .udp (s.load f).plen) →
    ∃ t, exec (.fUdp f) s = .next t ∧ ReceivedOnly s t f ∧
      t.status = ⟨.deliveredUdp, .udp, true, .ok⟩ ∧ Computed t .udp (s.load f).plen

/-- R91 (2): an enabled POLL transmits at most one frame, and exactly one when its disposition is
REPLIED_NA (86 bytes) or REPLIED_ECHO; a reply holds nothing. -/
def Obligations.PollTransmitsOnlyReplies : Prop :=
  ∀ s t : State, s.en = true → exec .poll s = .next t →
    (t.status.disp ≠ .repliedNa ∧ t.status.disp ≠ .repliedEcho ∧ NotTransmitted s t) ∨
    (∃ f, t.txlog = s.txlog ++ [f] ∧ t.txlen.toNat = f.length ∧ t.status.hold = .none ∧
      ((t.status.disp = .repliedNa ∧ f.length = 86) ∨
       (t.status.disp = .repliedEcho ∧ 58 ≤ f.length ∧ f.length ≤ t.rxlen.toNat)))

/-- R141 (1): POLL on a Solicitation that fits, verifies and asks for LIP appends exactly one frame, whose
bytes 0..5 are the request's bytes 6..11 and whose bytes 38..53 are the request's bytes 22..37. -/
def Obligations.OneAdvertisementToTheSource : Prop :=
  ∀ (s : State) (f : Frame) (rest : List (Option Frame)),
    s.en = true → s.rx = some f :: rest → f.length ≤ s.bufSize → frameClass f = .ns →
    54 + (s.load f).plen ≤ f.length → 24 ≤ (s.load f).plen →
    ((s.load f).be16 56).toNat = ckfinal ((s.load f).rawSum .icmpv6 (s.load f).plen) →
    (s.load f).ndTarget = s.lip.toList →
    ∃ t g, exec .poll s = .next t ∧ t.txlog = s.txlog ++ [g] ∧ g.length = 86 ∧
      g.take 6 = (f.drop 6).take 6 ∧ (g.drop 38).take 16 = (f.drop 22).take 16

/-- R141 (4): after a POLL that replied, the buffer holds the reply, and CKVFY on it gives CKOK = 1. -/
def Obligations.EveryReplyVerifies : Prop :=
  ∀ s t : State, s.en = true → exec .poll s = .next t →
    t.status.disp = .repliedNa ∨ t.status.disp = .repliedEcho →
    ∃ r, exec .ckvfy t = .next r ∧ r.status.ckok = true ∧ r.status.cmderr = .ok ∧
      t.txlog = s.txlog ++ [t.memRead 0 t.txlen.toNat]

/-- R72, R87: the Ethernet destination, the traffic class, the flow label and the hop limit of a received
frame change neither its disposition, nor any status or result register, nor a byte of what is sent, nor
any buffer byte outside their own offsets 0..5, 14..17 and 21 (where, unless a reply overwrote them, the
received bytes stand and the view registers show them). -/
def Obligations.UnexaminedFieldsDoNotMatter : Prop :=
  ∀ (s t : State) (f g : Frame) (rest : List (Option Frame)),
    s.en = true → s.rx = some f :: rest → f.length = g.length →
    (∀ i, 6 ≤ i → i ∉ [14, 15, 16, 17, 21] → f[i]? = g[i]?) →
    (frameByte f 14).extractLsb' 4 4 = (frameByte g 14).extractLsb' 4 4 →
    exec .poll s = .next t →
    ∃ r, exec .poll { s with rx := some g :: rest } = .next r ∧ r.status = t.status ∧
      r.rxlen = t.rxlen ∧ r.txlen = t.txlen ∧ r.ckacc = t.ckacc ∧ r.ckres = t.ckres ∧
      r.txlog = t.txlog ∧ r.rx = t.rx ∧ (∀ a, 6 ≤ a → a ∉ [14, 15, 16, 17, 21] → r.byte a = t.byte a)

/-! ## Rules over all commands and frames -/

/-- R38, R211: no command and no frame changes CTRL or a configuration register; and over whole steps, only a
host write of one of these registers (numbers 0 and 7 to 13) does, or RESET (R200). -/
def Obligations.OnlyHostWritesConfigure : Prop :=
  (∀ (i : Instr) (s t : State), exec i s = .next t → SameConfig s t) ∧
  ∀ s t : State, (∀ rest, s.host ≠ .reset :: rest) →
    (∀ n ∈ [0, 7, 8, 9, 10, 11, 12, 13], ∀ v rest, s.host ≠ .wr n v :: rest) → step s = .next t →
    t.en = s.en ∧ t.hoplim = s.hoplim ∧ t.lmac = s.lmac ∧ t.lip = s.lip ∧ t.lport = s.lport ∧
      t.rmac = s.rmac ∧ t.rip = s.rip ∧ t.rport = s.rport

/-- Of the commands only POLL writes DISP (R17), only POLL and CKVFY write CKOK (R17, R21), and only POLL
writes RXLEN (R29) or takes an answer of NI (R35). -/
def Obligations.StatusFieldWriters : Prop :=
  ∀ (w : Word) (s t : State), exec (decodeCmd w) s = .next t →
    (decodeCmd w ≠ .poll → t.status.disp = s.status.disp ∧ t.rxlen = s.rxlen ∧ t.rx = s.rx) ∧
    (decodeCmd w ≠ .poll → decodeCmd w ≠ .ckvfy → t.status.ckok = s.status.ckok)

/-- R19: what a command step may do to HOLD: POLL, UDPSEND, UDPREPLY and XMIT may clear it when they run,
a delivering POLL sets it to what it delivered, and nothing else changes it. -/
def Obligations.HoldLifecycle : Prop :=
  ∀ (w : Word) (s t : State), exec (decodeCmd w) s = .next t →
    t.status.hold = s.status.hold ∨
    (t.status.hold = .none ∧ t.status.cmderr = .ok ∧
      (decodeCmd w = .poll ∨
        ∃ len, decodeCmd w = .udpsend len ∨ decodeCmd w = .udpreply len ∨ decodeCmd w = .xmit len)) ∨
    (decodeCmd w = .poll ∧
      ((t.status.hold = .udp ∧ t.status.disp = .deliveredUdp) ∨
       (t.status.hold = .na ∧ t.status.disp = .deliveredNa)))

/-- R36: the transmit log only grows, by at most one frame an instruction, and a frame that is logged is
BUF[0 .. TXLEN-1] as it stands after the step. -/
def Obligations.TransmitLogOnlyGrows : Prop :=
  ∀ (i : Instr) (s t : State), exec i s = .next t →
    NotTransmitted s t ∨ (t.txlog = s.txlog ++ [t.memRead 0 t.txlen.toNat] ∧ 14 ≤ t.txlen.toNat)

/-! ## Register and buffer accesses -/

/-- R96: what a read of each view register returns; none can be written. -/
def Obligations.ViewRegistersShowTheBuffer : Prop :=
  ∀ s : State,
    s.readNum 16 = .mac (s.macAt 0) ∧ s.readNum 17 = .mac (s.macAt 6) ∧
    s.readNum 18 = numVal (s.be16 12) ∧
    s.readNum 19 = .num (BitVec.ofNat 32 ((s.byte 14).toNat / 16)) ∧
    s.readNum 20 = .num (BitVec.ofNat 32
      ((s.byte 14).toNat % 16 * 16 + (s.byte 15).toNat / 16)) ∧
    s.readNum 21 = .num (BitVec.ofNat 32
      ((s.byte 15).toNat % 16 * 65536 + (s.byte 16).toNat * 256 + (s.byte 17).toNat)) ∧
    s.readNum 22 = numVal (s.be16 18) ∧ s.readNum 23 = numVal (s.byte 20) ∧
    s.readNum 24 = numVal (s.byte 21) ∧
    s.readNum 25 = .ip (s.ipAt 22) ∧ s.readNum 26 = .ip (s.ipAt 38) ∧
    s.readNum 27 = .num 54 ∧
    s.readNum 28 = numVal (s.be16 54) ∧ s.readNum 29 = numVal (s.be16 56) ∧
    s.readNum 30 = numVal (s.be16 58) ∧ s.readNum 31 = numVal (s.be16 60) ∧
    s.readNum 32 = .num 62 ∧
    s.readNum 33 = .num (BitVec.ofNat 32 (((s.be16 18).toNat + 65536 - 8) % 65536)) ∧
    s.readNum 34 = numVal (s.byte 54) ∧ s.readNum 35 = numVal (s.byte 55) ∧
    s.readNum 36 = numVal (s.be16 56) ∧ s.readNum 37 = .ip (s.ipAt 62) ∧
    s.readNum 38 = numVal (s.byte 78) ∧ s.readNum 39 = numVal (s.byte 79) ∧
    s.readNum 40 = .mac (s.macAt 80) ∧
    (∀ a, (s.be16 a).toNat = 256 * (s.byte a).toNat + (s.byte (a + 1)).toNat) ∧
    (∀ a, (s.macAt a).toList = s.memRead a 6 ∧ (s.ipAt a).toList = s.memRead a 16) ∧
    ∀ n v, 16 ≤ n → n ≤ 40 → s.writeNum n v = s

/-- R17: STATUS reads DISP + 32*HOLD + 128*CKOK + 256*CMDERR, where each field reads as its code: the sixteen
DISP codes of R18, the three HOLD codes of R19 and the six CMDERR codes of R20. So bits 15:11 read 0 and no
reserved code ever shows. -/
def Obligations.StatusWordLayout : Prop :=
  (∀ s : State,
    s.readNum 2 = .num (BitVec.ofNat 32
      (s.status.disp.code.toNat + 32 * s.status.hold.code.toNat +
        128 * (if s.status.ckok then 1 else 0) + 256 * s.status.cmderr.code.toNat)) ∧
    s.status.disp.code.toNat ≤ 15 ∧ s.status.hold.code.toNat ≤ 2 ∧ s.status.cmderr.code.toNat ≤ 5) ∧
  (Disp.noframe.code = 0 ∧ Disp.dropOversize.code = 1 ∧ Disp.dropShort.code = 2 ∧
    Disp.dropEthertype.code = 3 ∧ Disp.dropVersion.code = 4 ∧ Disp.dropLength.code = 5 ∧
    Disp.dropUlShort.code = 6 ∧ Disp.dropUdpLen.code = 7 ∧ Disp.dropCksum.code = 8 ∧
    Disp.ignNh.code = 9 ∧ Disp.ignIcmpType.code = 10 ∧ Disp.ignNsTarget.code = 11 ∧
    Disp.repliedNa.code = 12 ∧ Disp.repliedEcho.code = 13 ∧ Disp.deliveredNa.code = 14 ∧
    Disp.deliveredUdp.code = 15) ∧
  (Hold.none.code = 0 ∧ Hold.udp.code = 1 ∧ Hold.na.code = 2) ∧
  (CmdErr.ok.code = 0 ∧ CmdErr.disabled.code = 1 ∧ CmdErr.badop.code = 2 ∧ CmdErr.badlen.code = 3 ∧
    CmdErr.noctx.code = 4 ∧ CmdErr.badframe.code = 5)

/-- R168: a write to CTRL sets EN to bit 0 of the value, ignores bits 7:1, and changes no other state; a
read of CTRL then returns that bit alone. -/
def Obligations.CtrlWriteSetsEnable : Prop :=
  ∀ (s : State) (v : Word) (rest : List Access), s.host = .wr 0 (.num v) :: rest →
    step s = .next { s with host := rest, en := v.getLsbD 0 } ∧
    ({ s with host := rest, en := v.getLsbD 0 } : State).readNum 0 = .num (v &&& 1)

/-- R13, R38, R169: a write of a read/write register replaces its whole value and nothing else; a write to a
read-only register or a reserved number has no effect. That a number is carried in 32 bits, of which
HOPLIM, LPORT and RPORT take the low 8 or 16 when it does not fit, is the model's choice (log 7, DESIGN
CHOICE). -/
def Obligations.RegisterWrites : Prop :=
  ∀ (s : State) (v : Word) (m : Mac) (a : Ip) (rest : List Access),
    (s.host = .wr 7 (.num v) :: rest → step s = .next { s with host := rest, hoplim := v.setWidth 8 }) ∧
    (s.host = .wr 8 (.mac m) :: rest → step s = .next { s with host := rest, lmac := m }) ∧
    (s.host = .wr 9 (.ip a) :: rest → step s = .next { s with host := rest, lip := a }) ∧
    (s.host = .wr 10 (.num v) :: rest →
      step s = .next { s with host := rest, lport := v.setWidth 16 }) ∧
    (s.host = .wr 11 (.mac m) :: rest → step s = .next { s with host := rest, rmac := m }) ∧
    (s.host = .wr 12 (.ip a) :: rest → step s = .next { s with host := rest, rip := a }) ∧
    (s.host = .wr 13 (.num v) :: rest →
      step s = .next { s with host := rest, rport := v.setWidth 16 }) ∧
    (∀ (n : Nat) (x : RegVal), n ∉ [0, 1, 7, 8, 9, 10, 11, 12, 13] → s.host = .wr n x :: rest →
      step s = .next { s with host := rest })

/-- R13, R38: what a read of each working register returns; a read of CMD or of a reserved number returns 0;
and a read changes nothing of the block. -/
def Obligations.RegisterReads : Prop :=
  ∀ s : State,
    s.readNum 0 = numVal (ctrlBits s.en) ∧ s.readNum 1 = .num 0 ∧ s.readNum 3 = numVal s.rxlen ∧
    s.readNum 4 = numVal s.txlen ∧ s.readNum 5 = .num s.ckacc ∧ s.readNum 6 = numVal s.ckres ∧
    s.readNum 7 = numVal s.hoplim ∧ s.readNum 8 = .mac s.lmac ∧ s.readNum 9 = .ip s.lip ∧
    s.readNum 10 = numVal s.lport ∧ s.readNum 11 = .mac s.rmac ∧ s.readNum 12 = .ip s.rip ∧
    s.readNum 13 = numVal s.rport ∧
    (∀ n, n = 14 ∨ n = 15 ∨ 40 < n → s.readNum n = .num 0) ∧
    ∀ n rest, s.host = .rd n :: rest →
      step s = .next { s with host := rest, reads := s.reads ++ [s.readNum n] }

/-- R45, R171: a host buffer write below BUF_SIZE changes that byte and nothing else, a read returns the
byte and changes nothing; at or above BUF_SIZE a read returns 0 and a write does nothing. -/
def Obligations.BufferByteAccess : Prop :=
  ∀ (s : State) (a : Half) (v : Byte) (rest : List Access),
    (s.host = .bw a v :: rest → ∃ t, step s = .next t ∧
      t = { s with host := rest, buf := t.buf } ∧
      ∀ x, t.byte x = if x = a.toNat ∧ a.toNat < s.bufSize then v else s.byte x) ∧
    (s.host = .br a :: rest → step s = .next { s with
      host := rest
      reads := s.reads ++ [numVal (if a.toNat < s.bufSize then s.byte a.toNat else 0)] })
end

