-- ==== Sys2Proof/Laws/State.lean ====
section
/-! SUPPORT. One lemma per field per update of State, so that no proof unfolds a record update: each true
by rfl, and the composed updates by the lemmas of what they compose. -/

namespace Sys2Proof.Machine

/-! ### setDisp -/

@[simp] theorem State.setDisp_en (s : State) (c : Disp) :
    (s.setDisp c).en = s.en := rfl
@[simp] theorem State.setDisp_rxlen (s : State) (c : Disp) :
    (s.setDisp c).rxlen = s.rxlen := rfl
@[simp] theorem State.setDisp_txlen (s : State) (c : Disp) :
    (s.setDisp c).txlen = s.txlen := rfl
@[simp] theorem State.setDisp_ckacc (s : State) (c : Disp) :
    (s.setDisp c).ckacc = s.ckacc := rfl
@[simp] theorem State.setDisp_ckres (s : State) (c : Disp) :
    (s.setDisp c).ckres = s.ckres := rfl
@[simp] theorem State.setDisp_hoplim (s : State) (c : Disp) :
    (s.setDisp c).hoplim = s.hoplim := rfl
@[simp] theorem State.setDisp_lmac (s : State) (c : Disp) :
    (s.setDisp c).lmac = s.lmac := rfl
@[simp] theorem State.setDisp_lip (s : State) (c : Disp) :
    (s.setDisp c).lip = s.lip := rfl
@[simp] theorem State.setDisp_lport (s : State) (c : Disp) :
    (s.setDisp c).lport = s.lport := rfl
@[simp] theorem State.setDisp_rmac (s : State) (c : Disp) :
    (s.setDisp c).rmac = s.rmac := rfl
@[simp] theorem State.setDisp_rip (s : State) (c : Disp) :
    (s.setDisp c).rip = s.rip := rfl
@[simp] theorem State.setDisp_rport (s : State) (c : Disp) :
    (s.setDisp c).rport = s.rport := rfl
@[simp] theorem State.setDisp_buf (s : State) (c : Disp) :
    (s.setDisp c).buf = s.buf := rfl
@[simp] theorem State.setDisp_txlog (s : State) (c : Disp) :
    (s.setDisp c).txlog = s.txlog := rfl
@[simp] theorem State.setDisp_params (s : State) (c : Disp) :
    (s.setDisp c).params = s.params := rfl
@[simp] theorem State.setDisp_epoch (s : State) (c : Disp) :
    (s.setDisp c).epoch = s.epoch := rfl
@[simp] theorem State.setDisp_host (s : State) (c : Disp) :
    (s.setDisp c).host = s.host := rfl
@[simp] theorem State.setDisp_rx (s : State) (c : Disp) :
    (s.setDisp c).rx = s.rx := rfl
@[simp] theorem State.setDisp_reads (s : State) (c : Disp) :
    (s.setDisp c).reads = s.reads := rfl

/-! ### setHold -/

@[simp] theorem State.setHold_en (s : State) (h : Hold) :
    (s.setHold h).en = s.en := rfl
@[simp] theorem State.setHold_rxlen (s : State) (h : Hold) :
    (s.setHold h).rxlen = s.rxlen := rfl
@[simp] theorem State.setHold_txlen (s : State) (h : Hold) :
    (s.setHold h).txlen = s.txlen := rfl
@[simp] theorem State.setHold_ckacc (s : State) (h : Hold) :
    (s.setHold h).ckacc = s.ckacc := rfl
@[simp] theorem State.setHold_ckres (s : State) (h : Hold) :
    (s.setHold h).ckres = s.ckres := rfl
@[simp] theorem State.setHold_hoplim (s : State) (h : Hold) :
    (s.setHold h).hoplim = s.hoplim := rfl
@[simp] theorem State.setHold_lmac (s : State) (h : Hold) :
    (s.setHold h).lmac = s.lmac := rfl
@[simp] theorem State.setHold_lip (s : State) (h : Hold) :
    (s.setHold h).lip = s.lip := rfl
@[simp] theorem State.setHold_lport (s : State) (h : Hold) :
    (s.setHold h).lport = s.lport := rfl
@[simp] theorem State.setHold_rmac (s : State) (h : Hold) :
    (s.setHold h).rmac = s.rmac := rfl
@[simp] theorem State.setHold_rip (s : State) (h : Hold) :
    (s.setHold h).rip = s.rip := rfl
@[simp] theorem State.setHold_rport (s : State) (h : Hold) :
    (s.setHold h).rport = s.rport := rfl
@[simp] theorem State.setHold_buf (s : State) (h : Hold) :
    (s.setHold h).buf = s.buf := rfl
@[simp] theorem State.setHold_txlog (s : State) (h : Hold) :
    (s.setHold h).txlog = s.txlog := rfl
@[simp] theorem State.setHold_params (s : State) (h : Hold) :
    (s.setHold h).params = s.params := rfl
@[simp] theorem State.setHold_epoch (s : State) (h : Hold) :
    (s.setHold h).epoch = s.epoch := rfl
@[simp] theorem State.setHold_host (s : State) (h : Hold) :
    (s.setHold h).host = s.host := rfl
@[simp] theorem State.setHold_rx (s : State) (h : Hold) :
    (s.setHold h).rx = s.rx := rfl
@[simp] theorem State.setHold_reads (s : State) (h : Hold) :
    (s.setHold h).reads = s.reads := rfl

/-! ### setCkok -/

@[simp] theorem State.setCkok_en (s : State) (ok : Bool) :
    (s.setCkok ok).en = s.en := rfl
@[simp] theorem State.setCkok_rxlen (s : State) (ok : Bool) :
    (s.setCkok ok).rxlen = s.rxlen := rfl
@[simp] theorem State.setCkok_txlen (s : State) (ok : Bool) :
    (s.setCkok ok).txlen = s.txlen := rfl
@[simp] theorem State.setCkok_ckacc (s : State) (ok : Bool) :
    (s.setCkok ok).ckacc = s.ckacc := rfl
@[simp] theorem State.setCkok_ckres (s : State) (ok : Bool) :
    (s.setCkok ok).ckres = s.ckres := rfl
@[simp] theorem State.setCkok_hoplim (s : State) (ok : Bool) :
    (s.setCkok ok).hoplim = s.hoplim := rfl
@[simp] theorem State.setCkok_lmac (s : State) (ok : Bool) :
    (s.setCkok ok).lmac = s.lmac := rfl
@[simp] theorem State.setCkok_lip (s : State) (ok : Bool) :
    (s.setCkok ok).lip = s.lip := rfl
@[simp] theorem State.setCkok_lport (s : State) (ok : Bool) :
    (s.setCkok ok).lport = s.lport := rfl
@[simp] theorem State.setCkok_rmac (s : State) (ok : Bool) :
    (s.setCkok ok).rmac = s.rmac := rfl
@[simp] theorem State.setCkok_rip (s : State) (ok : Bool) :
    (s.setCkok ok).rip = s.rip := rfl
@[simp] theorem State.setCkok_rport (s : State) (ok : Bool) :
    (s.setCkok ok).rport = s.rport := rfl
@[simp] theorem State.setCkok_buf (s : State) (ok : Bool) :
    (s.setCkok ok).buf = s.buf := rfl
@[simp] theorem State.setCkok_txlog (s : State) (ok : Bool) :
    (s.setCkok ok).txlog = s.txlog := rfl
@[simp] theorem State.setCkok_params (s : State) (ok : Bool) :
    (s.setCkok ok).params = s.params := rfl
@[simp] theorem State.setCkok_epoch (s : State) (ok : Bool) :
    (s.setCkok ok).epoch = s.epoch := rfl
@[simp] theorem State.setCkok_host (s : State) (ok : Bool) :
    (s.setCkok ok).host = s.host := rfl
@[simp] theorem State.setCkok_rx (s : State) (ok : Bool) :
    (s.setCkok ok).rx = s.rx := rfl
@[simp] theorem State.setCkok_reads (s : State) (ok : Bool) :
    (s.setCkok ok).reads = s.reads := rfl

/-! ### setCmderr -/

@[simp] theorem State.setCmderr_en (s : State) (e : CmdErr) :
    (s.setCmderr e).en = s.en := rfl
@[simp] theorem State.setCmderr_rxlen (s : State) (e : CmdErr) :
    (s.setCmderr e).rxlen = s.rxlen := rfl
@[simp] theorem State.setCmderr_txlen (s : State) (e : CmdErr) :
    (s.setCmderr e).txlen = s.txlen := rfl
@[simp] theorem State.setCmderr_ckacc (s : State) (e : CmdErr) :
    (s.setCmderr e).ckacc = s.ckacc := rfl
@[simp] theorem State.setCmderr_ckres (s : State) (e : CmdErr) :
    (s.setCmderr e).ckres = s.ckres := rfl
@[simp] theorem State.setCmderr_hoplim (s : State) (e : CmdErr) :
    (s.setCmderr e).hoplim = s.hoplim := rfl
@[simp] theorem State.setCmderr_lmac (s : State) (e : CmdErr) :
    (s.setCmderr e).lmac = s.lmac := rfl
@[simp] theorem State.setCmderr_lip (s : State) (e : CmdErr) :
    (s.setCmderr e).lip = s.lip := rfl
@[simp] theorem State.setCmderr_lport (s : State) (e : CmdErr) :
    (s.setCmderr e).lport = s.lport := rfl
@[simp] theorem State.setCmderr_rmac (s : State) (e : CmdErr) :
    (s.setCmderr e).rmac = s.rmac := rfl
@[simp] theorem State.setCmderr_rip (s : State) (e : CmdErr) :
    (s.setCmderr e).rip = s.rip := rfl
@[simp] theorem State.setCmderr_rport (s : State) (e : CmdErr) :
    (s.setCmderr e).rport = s.rport := rfl
@[simp] theorem State.setCmderr_buf (s : State) (e : CmdErr) :
    (s.setCmderr e).buf = s.buf := rfl
@[simp] theorem State.setCmderr_txlog (s : State) (e : CmdErr) :
    (s.setCmderr e).txlog = s.txlog := rfl
@[simp] theorem State.setCmderr_params (s : State) (e : CmdErr) :
    (s.setCmderr e).params = s.params := rfl
@[simp] theorem State.setCmderr_epoch (s : State) (e : CmdErr) :
    (s.setCmderr e).epoch = s.epoch := rfl
@[simp] theorem State.setCmderr_host (s : State) (e : CmdErr) :
    (s.setCmderr e).host = s.host := rfl
@[simp] theorem State.setCmderr_rx (s : State) (e : CmdErr) :
    (s.setCmderr e).rx = s.rx := rfl
@[simp] theorem State.setCmderr_reads (s : State) (e : CmdErr) :
    (s.setCmderr e).reads = s.reads := rfl

/-! ### setByte -/

@[simp] theorem State.setByte_en (s : State) (a : Nat) (v : Byte) :
    (s.setByte a v).en = s.en := rfl
@[simp] theorem State.setByte_status (s : State) (a : Nat) (v : Byte) :
    (s.setByte a v).status = s.status := rfl
@[simp] theorem State.setByte_rxlen (s : State) (a : Nat) (v : Byte) :
    (s.setByte a v).rxlen = s.rxlen := rfl
@[simp] theorem State.setByte_txlen (s : State) (a : Nat) (v : Byte) :
    (s.setByte a v).txlen = s.txlen := rfl
@[simp] theorem State.setByte_ckacc (s : State) (a : Nat) (v : Byte) :
    (s.setByte a v).ckacc = s.ckacc := rfl
@[simp] theorem State.setByte_ckres (s : State) (a : Nat) (v : Byte) :
    (s.setByte a v).ckres = s.ckres := rfl
@[simp] theorem State.setByte_hoplim (s : State) (a : Nat) (v : Byte) :
    (s.setByte a v).hoplim = s.hoplim := rfl
@[simp] theorem State.setByte_lmac (s : State) (a : Nat) (v : Byte) :
    (s.setByte a v).lmac = s.lmac := rfl
@[simp] theorem State.setByte_lip (s : State) (a : Nat) (v : Byte) :
    (s.setByte a v).lip = s.lip := rfl
@[simp] theorem State.setByte_lport (s : State) (a : Nat) (v : Byte) :
    (s.setByte a v).lport = s.lport := rfl
@[simp] theorem State.setByte_rmac (s : State) (a : Nat) (v : Byte) :
    (s.setByte a v).rmac = s.rmac := rfl
@[simp] theorem State.setByte_rip (s : State) (a : Nat) (v : Byte) :
    (s.setByte a v).rip = s.rip := rfl
@[simp] theorem State.setByte_rport (s : State) (a : Nat) (v : Byte) :
    (s.setByte a v).rport = s.rport := rfl
@[simp] theorem State.setByte_txlog (s : State) (a : Nat) (v : Byte) :
    (s.setByte a v).txlog = s.txlog := rfl
@[simp] theorem State.setByte_params (s : State) (a : Nat) (v : Byte) :
    (s.setByte a v).params = s.params := rfl
@[simp] theorem State.setByte_epoch (s : State) (a : Nat) (v : Byte) :
    (s.setByte a v).epoch = s.epoch := rfl
@[simp] theorem State.setByte_host (s : State) (a : Nat) (v : Byte) :
    (s.setByte a v).host = s.host := rfl
@[simp] theorem State.setByte_rx (s : State) (a : Nat) (v : Byte) :
    (s.setByte a v).rx = s.rx := rfl
@[simp] theorem State.setByte_reads (s : State) (a : Nat) (v : Byte) :
    (s.setByte a v).reads = s.reads := rfl

/-! ### memWrite -/

@[simp] theorem State.memWrite_en (s : State) (a : Nat) (v : List Byte) :
    (s.memWrite a v).en = s.en := rfl
@[simp] theorem State.memWrite_status (s : State) (a : Nat) (v : List Byte) :
    (s.memWrite a v).status = s.status := rfl
@[simp] theorem State.memWrite_rxlen (s : State) (a : Nat) (v : List Byte) :
    (s.memWrite a v).rxlen = s.rxlen := rfl
@[simp] theorem State.memWrite_txlen (s : State) (a : Nat) (v : List Byte) :
    (s.memWrite a v).txlen = s.txlen := rfl
@[simp] theorem State.memWrite_ckacc (s : State) (a : Nat) (v : List Byte) :
    (s.memWrite a v).ckacc = s.ckacc := rfl
@[simp] theorem State.memWrite_ckres (s : State) (a : Nat) (v : List Byte) :
    (s.memWrite a v).ckres = s.ckres := rfl
@[simp] theorem State.memWrite_hoplim (s : State) (a : Nat) (v : List Byte) :
    (s.memWrite a v).hoplim = s.hoplim := rfl
@[simp] theorem State.memWrite_lmac (s : State) (a : Nat) (v : List Byte) :
    (s.memWrite a v).lmac = s.lmac := rfl
@[simp] theorem State.memWrite_lip (s : State) (a : Nat) (v : List Byte) :
    (s.memWrite a v).lip = s.lip := rfl
@[simp] theorem State.memWrite_lport (s : State) (a : Nat) (v : List Byte) :
    (s.memWrite a v).lport = s.lport := rfl
@[simp] theorem State.memWrite_rmac (s : State) (a : Nat) (v : List Byte) :
    (s.memWrite a v).rmac = s.rmac := rfl
@[simp] theorem State.memWrite_rip (s : State) (a : Nat) (v : List Byte) :
    (s.memWrite a v).rip = s.rip := rfl
@[simp] theorem State.memWrite_rport (s : State) (a : Nat) (v : List Byte) :
    (s.memWrite a v).rport = s.rport := rfl
@[simp] theorem State.memWrite_txlog (s : State) (a : Nat) (v : List Byte) :
    (s.memWrite a v).txlog = s.txlog := rfl
@[simp] theorem State.memWrite_params (s : State) (a : Nat) (v : List Byte) :
    (s.memWrite a v).params = s.params := rfl
@[simp] theorem State.memWrite_epoch (s : State) (a : Nat) (v : List Byte) :
    (s.memWrite a v).epoch = s.epoch := rfl
@[simp] theorem State.memWrite_host (s : State) (a : Nat) (v : List Byte) :
    (s.memWrite a v).host = s.host := rfl
@[simp] theorem State.memWrite_rx (s : State) (a : Nat) (v : List Byte) :
    (s.memWrite a v).rx = s.rx := rfl
@[simp] theorem State.memWrite_reads (s : State) (a : Nat) (v : List Byte) :
    (s.memWrite a v).reads = s.reads := rfl

/-! ### memWrites -/

@[simp] theorem State.memWrites_en (s : State) (ws : List (Nat × List Byte)) :
    (s.memWrites ws).en = s.en := rfl
@[simp] theorem State.memWrites_status (s : State) (ws : List (Nat × List Byte)) :
    (s.memWrites ws).status = s.status := rfl
@[simp] theorem State.memWrites_rxlen (s : State) (ws : List (Nat × List Byte)) :
    (s.memWrites ws).rxlen = s.rxlen := rfl
@[simp] theorem State.memWrites_txlen (s : State) (ws : List (Nat × List Byte)) :
    (s.memWrites ws).txlen = s.txlen := rfl
@[simp] theorem State.memWrites_ckacc (s : State) (ws : List (Nat × List Byte)) :
    (s.memWrites ws).ckacc = s.ckacc := rfl
@[simp] theorem State.memWrites_ckres (s : State) (ws : List (Nat × List Byte)) :
    (s.memWrites ws).ckres = s.ckres := rfl
@[simp] theorem State.memWrites_hoplim (s : State) (ws : List (Nat × List Byte)) :
    (s.memWrites ws).hoplim = s.hoplim := rfl
@[simp] theorem State.memWrites_lmac (s : State) (ws : List (Nat × List Byte)) :
    (s.memWrites ws).lmac = s.lmac := rfl
@[simp] theorem State.memWrites_lip (s : State) (ws : List (Nat × List Byte)) :
    (s.memWrites ws).lip = s.lip := rfl
@[simp] theorem State.memWrites_lport (s : State) (ws : List (Nat × List Byte)) :
    (s.memWrites ws).lport = s.lport := rfl
@[simp] theorem State.memWrites_rmac (s : State) (ws : List (Nat × List Byte)) :
    (s.memWrites ws).rmac = s.rmac := rfl
@[simp] theorem State.memWrites_rip (s : State) (ws : List (Nat × List Byte)) :
    (s.memWrites ws).rip = s.rip := rfl
@[simp] theorem State.memWrites_rport (s : State) (ws : List (Nat × List Byte)) :
    (s.memWrites ws).rport = s.rport := rfl
@[simp] theorem State.memWrites_txlog (s : State) (ws : List (Nat × List Byte)) :
    (s.memWrites ws).txlog = s.txlog := rfl
@[simp] theorem State.memWrites_params (s : State) (ws : List (Nat × List Byte)) :
    (s.memWrites ws).params = s.params := rfl
@[simp] theorem State.memWrites_epoch (s : State) (ws : List (Nat × List Byte)) :
    (s.memWrites ws).epoch = s.epoch := rfl
@[simp] theorem State.memWrites_host (s : State) (ws : List (Nat × List Byte)) :
    (s.memWrites ws).host = s.host := rfl
@[simp] theorem State.memWrites_rx (s : State) (ws : List (Nat × List Byte)) :
    (s.memWrites ws).rx = s.rx := rfl
@[simp] theorem State.memWrites_reads (s : State) (ws : List (Nat × List Byte)) :
    (s.memWrites ws).reads = s.reads := rfl

/-! ### setBe16 -/

@[simp] theorem State.setBe16_en (s : State) (a : Nat) (v : Half) :
    (s.setBe16 a v).en = s.en := rfl
@[simp] theorem State.setBe16_status (s : State) (a : Nat) (v : Half) :
    (s.setBe16 a v).status = s.status := rfl
@[simp] theorem State.setBe16_rxlen (s : State) (a : Nat) (v : Half) :
    (s.setBe16 a v).rxlen = s.rxlen := rfl
@[simp] theorem State.setBe16_txlen (s : State) (a : Nat) (v : Half) :
    (s.setBe16 a v).txlen = s.txlen := rfl
@[simp] theorem State.setBe16_ckacc (s : State) (a : Nat) (v : Half) :
    (s.setBe16 a v).ckacc = s.ckacc := rfl
@[simp] theorem State.setBe16_ckres (s : State) (a : Nat) (v : Half) :
    (s.setBe16 a v).ckres = s.ckres := rfl
@[simp] theorem State.setBe16_hoplim (s : State) (a : Nat) (v : Half) :
    (s.setBe16 a v).hoplim = s.hoplim := rfl
@[simp] theorem State.setBe16_lmac (s : State) (a : Nat) (v : Half) :
    (s.setBe16 a v).lmac = s.lmac := rfl
@[simp] theorem State.setBe16_lip (s : State) (a : Nat) (v : Half) :
    (s.setBe16 a v).lip = s.lip := rfl
@[simp] theorem State.setBe16_lport (s : State) (a : Nat) (v : Half) :
    (s.setBe16 a v).lport = s.lport := rfl
@[simp] theorem State.setBe16_rmac (s : State) (a : Nat) (v : Half) :
    (s.setBe16 a v).rmac = s.rmac := rfl
@[simp] theorem State.setBe16_rip (s : State) (a : Nat) (v : Half) :
    (s.setBe16 a v).rip = s.rip := rfl
@[simp] theorem State.setBe16_rport (s : State) (a : Nat) (v : Half) :
    (s.setBe16 a v).rport = s.rport := rfl
@[simp] theorem State.setBe16_txlog (s : State) (a : Nat) (v : Half) :
    (s.setBe16 a v).txlog = s.txlog := rfl
@[simp] theorem State.setBe16_params (s : State) (a : Nat) (v : Half) :
    (s.setBe16 a v).params = s.params := rfl
@[simp] theorem State.setBe16_epoch (s : State) (a : Nat) (v : Half) :
    (s.setBe16 a v).epoch = s.epoch := rfl
@[simp] theorem State.setBe16_host (s : State) (a : Nat) (v : Half) :
    (s.setBe16 a v).host = s.host := rfl
@[simp] theorem State.setBe16_rx (s : State) (a : Nat) (v : Half) :
    (s.setBe16 a v).rx = s.rx := rfl
@[simp] theorem State.setBe16_reads (s : State) (a : Nat) (v : Half) :
    (s.setBe16 a v).reads = s.reads := rfl

/-! ### cksum -/

@[simp] theorem State.cksum_en (s : State) (u : UpperLayer) (n : Nat) :
    (s.cksum u n).en = s.en := rfl
@[simp] theorem State.cksum_status (s : State) (u : UpperLayer) (n : Nat) :
    (s.cksum u n).status = s.status := rfl
@[simp] theorem State.cksum_rxlen (s : State) (u : UpperLayer) (n : Nat) :
    (s.cksum u n).rxlen = s.rxlen := rfl
@[simp] theorem State.cksum_txlen (s : State) (u : UpperLayer) (n : Nat) :
    (s.cksum u n).txlen = s.txlen := rfl
@[simp] theorem State.cksum_hoplim (s : State) (u : UpperLayer) (n : Nat) :
    (s.cksum u n).hoplim = s.hoplim := rfl
@[simp] theorem State.cksum_lmac (s : State) (u : UpperLayer) (n : Nat) :
    (s.cksum u n).lmac = s.lmac := rfl
@[simp] theorem State.cksum_lip (s : State) (u : UpperLayer) (n : Nat) :
    (s.cksum u n).lip = s.lip := rfl
@[simp] theorem State.cksum_lport (s : State) (u : UpperLayer) (n : Nat) :
    (s.cksum u n).lport = s.lport := rfl
@[simp] theorem State.cksum_rmac (s : State) (u : UpperLayer) (n : Nat) :
    (s.cksum u n).rmac = s.rmac := rfl
@[simp] theorem State.cksum_rip (s : State) (u : UpperLayer) (n : Nat) :
    (s.cksum u n).rip = s.rip := rfl
@[simp] theorem State.cksum_rport (s : State) (u : UpperLayer) (n : Nat) :
    (s.cksum u n).rport = s.rport := rfl
@[simp] theorem State.cksum_buf (s : State) (u : UpperLayer) (n : Nat) :
    (s.cksum u n).buf = s.buf := rfl
@[simp] theorem State.cksum_txlog (s : State) (u : UpperLayer) (n : Nat) :
    (s.cksum u n).txlog = s.txlog := rfl
@[simp] theorem State.cksum_params (s : State) (u : UpperLayer) (n : Nat) :
    (s.cksum u n).params = s.params := rfl
@[simp] theorem State.cksum_epoch (s : State) (u : UpperLayer) (n : Nat) :
    (s.cksum u n).epoch = s.epoch := rfl
@[simp] theorem State.cksum_host (s : State) (u : UpperLayer) (n : Nat) :
    (s.cksum u n).host = s.host := rfl
@[simp] theorem State.cksum_rx (s : State) (u : UpperLayer) (n : Nat) :
    (s.cksum u n).rx = s.rx := rfl
@[simp] theorem State.cksum_reads (s : State) (u : UpperLayer) (n : Nat) :
    (s.cksum u n).reads = s.reads := rfl

/-! ### fillCksum -/

@[simp] theorem State.fillCksum_en (s : State) (u : UpperLayer) (n : Nat) :
    (s.fillCksum u n).en = s.en := rfl
@[simp] theorem State.fillCksum_status (s : State) (u : UpperLayer) (n : Nat) :
    (s.fillCksum u n).status = s.status := rfl
@[simp] theorem State.fillCksum_rxlen (s : State) (u : UpperLayer) (n : Nat) :
    (s.fillCksum u n).rxlen = s.rxlen := rfl
@[simp] theorem State.fillCksum_txlen (s : State) (u : UpperLayer) (n : Nat) :
    (s.fillCksum u n).txlen = s.txlen := rfl
@[simp] theorem State.fillCksum_hoplim (s : State) (u : UpperLayer) (n : Nat) :
    (s.fillCksum u n).hoplim = s.hoplim := rfl
@[simp] theorem State.fillCksum_lmac (s : State) (u : UpperLayer) (n : Nat) :
    (s.fillCksum u n).lmac = s.lmac := rfl
@[simp] theorem State.fillCksum_lip (s : State) (u : UpperLayer) (n : Nat) :
    (s.fillCksum u n).lip = s.lip := rfl
@[simp] theorem State.fillCksum_lport (s : State) (u : UpperLayer) (n : Nat) :
    (s.fillCksum u n).lport = s.lport := rfl
@[simp] theorem State.fillCksum_rmac (s : State) (u : UpperLayer) (n : Nat) :
    (s.fillCksum u n).rmac = s.rmac := rfl
@[simp] theorem State.fillCksum_rip (s : State) (u : UpperLayer) (n : Nat) :
    (s.fillCksum u n).rip = s.rip := rfl
@[simp] theorem State.fillCksum_rport (s : State) (u : UpperLayer) (n : Nat) :
    (s.fillCksum u n).rport = s.rport := rfl
@[simp] theorem State.fillCksum_txlog (s : State) (u : UpperLayer) (n : Nat) :
    (s.fillCksum u n).txlog = s.txlog := rfl
@[simp] theorem State.fillCksum_params (s : State) (u : UpperLayer) (n : Nat) :
    (s.fillCksum u n).params = s.params := rfl
@[simp] theorem State.fillCksum_epoch (s : State) (u : UpperLayer) (n : Nat) :
    (s.fillCksum u n).epoch = s.epoch := rfl
@[simp] theorem State.fillCksum_host (s : State) (u : UpperLayer) (n : Nat) :
    (s.fillCksum u n).host = s.host := rfl
@[simp] theorem State.fillCksum_rx (s : State) (u : UpperLayer) (n : Nat) :
    (s.fillCksum u n).rx = s.rx := rfl
@[simp] theorem State.fillCksum_reads (s : State) (u : UpperLayer) (n : Nat) :
    (s.fillCksum u n).reads = s.reads := rfl

/-! ### verify -/

@[simp] theorem State.verify_en (s : State) (u : UpperLayer) (n : Nat) :
    (s.verify u n).en = s.en := rfl
@[simp] theorem State.verify_rxlen (s : State) (u : UpperLayer) (n : Nat) :
    (s.verify u n).rxlen = s.rxlen := rfl
@[simp] theorem State.verify_txlen (s : State) (u : UpperLayer) (n : Nat) :
    (s.verify u n).txlen = s.txlen := rfl
@[simp] theorem State.verify_hoplim (s : State) (u : UpperLayer) (n : Nat) :
    (s.verify u n).hoplim = s.hoplim := rfl
@[simp] theorem State.verify_lmac (s : State) (u : UpperLayer) (n : Nat) :
    (s.verify u n).lmac = s.lmac := rfl
@[simp] theorem State.verify_lip (s : State) (u : UpperLayer) (n : Nat) :
    (s.verify u n).lip = s.lip := rfl
@[simp] theorem State.verify_lport (s : State) (u : UpperLayer) (n : Nat) :
    (s.verify u n).lport = s.lport := rfl
@[simp] theorem State.verify_rmac (s : State) (u : UpperLayer) (n : Nat) :
    (s.verify u n).rmac = s.rmac := rfl
@[simp] theorem State.verify_rip (s : State) (u : UpperLayer) (n : Nat) :
    (s.verify u n).rip = s.rip := rfl
@[simp] theorem State.verify_rport (s : State) (u : UpperLayer) (n : Nat) :
    (s.verify u n).rport = s.rport := rfl
@[simp] theorem State.verify_buf (s : State) (u : UpperLayer) (n : Nat) :
    (s.verify u n).buf = s.buf := rfl
@[simp] theorem State.verify_txlog (s : State) (u : UpperLayer) (n : Nat) :
    (s.verify u n).txlog = s.txlog := rfl
@[simp] theorem State.verify_params (s : State) (u : UpperLayer) (n : Nat) :
    (s.verify u n).params = s.params := rfl
@[simp] theorem State.verify_epoch (s : State) (u : UpperLayer) (n : Nat) :
    (s.verify u n).epoch = s.epoch := rfl
@[simp] theorem State.verify_host (s : State) (u : UpperLayer) (n : Nat) :
    (s.verify u n).host = s.host := rfl
@[simp] theorem State.verify_rx (s : State) (u : UpperLayer) (n : Nat) :
    (s.verify u n).rx = s.rx := rfl
@[simp] theorem State.verify_reads (s : State) (u : UpperLayer) (n : Nat) :
    (s.verify u n).reads = s.reads := rfl

/-! ### tx -/

@[simp] theorem State.tx_en (s : State) (n : Nat) :
    (s.tx n).en = s.en := rfl
@[simp] theorem State.tx_status (s : State) (n : Nat) :
    (s.tx n).status = s.status := rfl
@[simp] theorem State.tx_rxlen (s : State) (n : Nat) :
    (s.tx n).rxlen = s.rxlen := rfl
@[simp] theorem State.tx_ckacc (s : State) (n : Nat) :
    (s.tx n).ckacc = s.ckacc := rfl
@[simp] theorem State.tx_ckres (s : State) (n : Nat) :
    (s.tx n).ckres = s.ckres := rfl
@[simp] theorem State.tx_hoplim (s : State) (n : Nat) :
    (s.tx n).hoplim = s.hoplim := rfl
@[simp] theorem State.tx_lmac (s : State) (n : Nat) :
    (s.tx n).lmac = s.lmac := rfl
@[simp] theorem State.tx_lip (s : State) (n : Nat) :
    (s.tx n).lip = s.lip := rfl
@[simp] theorem State.tx_lport (s : State) (n : Nat) :
    (s.tx n).lport = s.lport := rfl
@[simp] theorem State.tx_rmac (s : State) (n : Nat) :
    (s.tx n).rmac = s.rmac := rfl
@[simp] theorem State.tx_rip (s : State) (n : Nat) :
    (s.tx n).rip = s.rip := rfl
@[simp] theorem State.tx_rport (s : State) (n : Nat) :
    (s.tx n).rport = s.rport := rfl
@[simp] theorem State.tx_buf (s : State) (n : Nat) :
    (s.tx n).buf = s.buf := rfl
@[simp] theorem State.tx_params (s : State) (n : Nat) :
    (s.tx n).params = s.params := rfl
@[simp] theorem State.tx_epoch (s : State) (n : Nat) :
    (s.tx n).epoch = s.epoch := rfl
@[simp] theorem State.tx_host (s : State) (n : Nat) :
    (s.tx n).host = s.host := rfl
@[simp] theorem State.tx_rx (s : State) (n : Nat) :
    (s.tx n).rx = s.rx := rfl
@[simp] theorem State.tx_reads (s : State) (n : Nat) :
    (s.tx n).reads = s.reads := rfl

/-! ### dropAnswer -/

@[simp] theorem State.dropAnswer_en (s : State) :
    (s.dropAnswer).en = s.en := rfl
@[simp] theorem State.dropAnswer_status (s : State) :
    (s.dropAnswer).status = s.status := rfl
@[simp] theorem State.dropAnswer_rxlen (s : State) :
    (s.dropAnswer).rxlen = s.rxlen := rfl
@[simp] theorem State.dropAnswer_txlen (s : State) :
    (s.dropAnswer).txlen = s.txlen := rfl
@[simp] theorem State.dropAnswer_ckacc (s : State) :
    (s.dropAnswer).ckacc = s.ckacc := rfl
@[simp] theorem State.dropAnswer_ckres (s : State) :
    (s.dropAnswer).ckres = s.ckres := rfl
@[simp] theorem State.dropAnswer_hoplim (s : State) :
    (s.dropAnswer).hoplim = s.hoplim := rfl
@[simp] theorem State.dropAnswer_lmac (s : State) :
    (s.dropAnswer).lmac = s.lmac := rfl
@[simp] theorem State.dropAnswer_lip (s : State) :
    (s.dropAnswer).lip = s.lip := rfl
@[simp] theorem State.dropAnswer_lport (s : State) :
    (s.dropAnswer).lport = s.lport := rfl
@[simp] theorem State.dropAnswer_rmac (s : State) :
    (s.dropAnswer).rmac = s.rmac := rfl
@[simp] theorem State.dropAnswer_rip (s : State) :
    (s.dropAnswer).rip = s.rip := rfl
@[simp] theorem State.dropAnswer_rport (s : State) :
    (s.dropAnswer).rport = s.rport := rfl
@[simp] theorem State.dropAnswer_buf (s : State) :
    (s.dropAnswer).buf = s.buf := rfl
@[simp] theorem State.dropAnswer_txlog (s : State) :
    (s.dropAnswer).txlog = s.txlog := rfl
@[simp] theorem State.dropAnswer_params (s : State) :
    (s.dropAnswer).params = s.params := rfl
@[simp] theorem State.dropAnswer_epoch (s : State) :
    (s.dropAnswer).epoch = s.epoch := rfl
@[simp] theorem State.dropAnswer_host (s : State) :
    (s.dropAnswer).host = s.host := rfl
@[simp] theorem State.dropAnswer_reads (s : State) :
    (s.dropAnswer).reads = s.reads := rfl

/-! ### returned -/

@[simp] theorem State.returned_en (s : State) (v : RegVal) :
    (s.returned v).en = s.en := rfl
@[simp] theorem State.returned_status (s : State) (v : RegVal) :
    (s.returned v).status = s.status := rfl
@[simp] theorem State.returned_rxlen (s : State) (v : RegVal) :
    (s.returned v).rxlen = s.rxlen := rfl
@[simp] theorem State.returned_txlen (s : State) (v : RegVal) :
    (s.returned v).txlen = s.txlen := rfl
@[simp] theorem State.returned_ckacc (s : State) (v : RegVal) :
    (s.returned v).ckacc = s.ckacc := rfl
@[simp] theorem State.returned_ckres (s : State) (v : RegVal) :
    (s.returned v).ckres = s.ckres := rfl
@[simp] theorem State.returned_hoplim (s : State) (v : RegVal) :
    (s.returned v).hoplim = s.hoplim := rfl
@[simp] theorem State.returned_lmac (s : State) (v : RegVal) :
    (s.returned v).lmac = s.lmac := rfl
@[simp] theorem State.returned_lip (s : State) (v : RegVal) :
    (s.returned v).lip = s.lip := rfl
@[simp] theorem State.returned_lport (s : State) (v : RegVal) :
    (s.returned v).lport = s.lport := rfl
@[simp] theorem State.returned_rmac (s : State) (v : RegVal) :
    (s.returned v).rmac = s.rmac := rfl
@[simp] theorem State.returned_rip (s : State) (v : RegVal) :
    (s.returned v).rip = s.rip := rfl
@[simp] theorem State.returned_rport (s : State) (v : RegVal) :
    (s.returned v).rport = s.rport := rfl
@[simp] theorem State.returned_buf (s : State) (v : RegVal) :
    (s.returned v).buf = s.buf := rfl
@[simp] theorem State.returned_txlog (s : State) (v : RegVal) :
    (s.returned v).txlog = s.txlog := rfl
@[simp] theorem State.returned_params (s : State) (v : RegVal) :
    (s.returned v).params = s.params := rfl
@[simp] theorem State.returned_epoch (s : State) (v : RegVal) :
    (s.returned v).epoch = s.epoch := rfl
@[simp] theorem State.returned_host (s : State) (v : RegVal) :
    (s.returned v).host = s.host := rfl
@[simp] theorem State.returned_rx (s : State) (v : RegVal) :
    (s.returned v).rx = s.rx := rfl

/-! ### prepareReply -/

@[simp] theorem State.prepareReply_en (s : State) (ip : List Byte) :
    (s.prepareReply ip).en = s.en := rfl
@[simp] theorem State.prepareReply_status (s : State) (ip : List Byte) :
    (s.prepareReply ip).status = s.status := rfl
@[simp] theorem State.prepareReply_rxlen (s : State) (ip : List Byte) :
    (s.prepareReply ip).rxlen = s.rxlen := rfl
@[simp] theorem State.prepareReply_txlen (s : State) (ip : List Byte) :
    (s.prepareReply ip).txlen = s.txlen := rfl
@[simp] theorem State.prepareReply_ckacc (s : State) (ip : List Byte) :
    (s.prepareReply ip).ckacc = s.ckacc := rfl
@[simp] theorem State.prepareReply_ckres (s : State) (ip : List Byte) :
    (s.prepareReply ip).ckres = s.ckres := rfl
@[simp] theorem State.prepareReply_hoplim (s : State) (ip : List Byte) :
    (s.prepareReply ip).hoplim = s.hoplim := rfl
@[simp] theorem State.prepareReply_lmac (s : State) (ip : List Byte) :
    (s.prepareReply ip).lmac = s.lmac := rfl
@[simp] theorem State.prepareReply_lip (s : State) (ip : List Byte) :
    (s.prepareReply ip).lip = s.lip := rfl
@[simp] theorem State.prepareReply_lport (s : State) (ip : List Byte) :
    (s.prepareReply ip).lport = s.lport := rfl
@[simp] theorem State.prepareReply_rmac (s : State) (ip : List Byte) :
    (s.prepareReply ip).rmac = s.rmac := rfl
@[simp] theorem State.prepareReply_rip (s : State) (ip : List Byte) :
    (s.prepareReply ip).rip = s.rip := rfl
@[simp] theorem State.prepareReply_rport (s : State) (ip : List Byte) :
    (s.prepareReply ip).rport = s.rport := rfl
@[simp] theorem State.prepareReply_txlog (s : State) (ip : List Byte) :
    (s.prepareReply ip).txlog = s.txlog := rfl
@[simp] theorem State.prepareReply_params (s : State) (ip : List Byte) :
    (s.prepareReply ip).params = s.params := rfl
@[simp] theorem State.prepareReply_epoch (s : State) (ip : List Byte) :
    (s.prepareReply ip).epoch = s.epoch := rfl
@[simp] theorem State.prepareReply_host (s : State) (ip : List Byte) :
    (s.prepareReply ip).host = s.host := rfl
@[simp] theorem State.prepareReply_rx (s : State) (ip : List Byte) :
    (s.prepareReply ip).rx = s.rx := rfl
@[simp] theorem State.prepareReply_reads (s : State) (ip : List Byte) :
    (s.prepareReply ip).reads = s.reads := rfl

/-! ### buildNa -/

@[simp] theorem State.buildNa_en (s : State) :
    (s.buildNa).en = s.en := rfl
@[simp] theorem State.buildNa_status (s : State) :
    (s.buildNa).status = s.status := rfl
@[simp] theorem State.buildNa_rxlen (s : State) :
    (s.buildNa).rxlen = s.rxlen := rfl
@[simp] theorem State.buildNa_txlen (s : State) :
    (s.buildNa).txlen = s.txlen := rfl
@[simp] theorem State.buildNa_ckacc (s : State) :
    (s.buildNa).ckacc = s.ckacc := rfl
@[simp] theorem State.buildNa_ckres (s : State) :
    (s.buildNa).ckres = s.ckres := rfl
@[simp] theorem State.buildNa_hoplim (s : State) :
    (s.buildNa).hoplim = s.hoplim := rfl
@[simp] theorem State.buildNa_lmac (s : State) :
    (s.buildNa).lmac = s.lmac := rfl
@[simp] theorem State.buildNa_lip (s : State) :
    (s.buildNa).lip = s.lip := rfl
@[simp] theorem State.buildNa_lport (s : State) :
    (s.buildNa).lport = s.lport := rfl
@[simp] theorem State.buildNa_rmac (s : State) :
    (s.buildNa).rmac = s.rmac := rfl
@[simp] theorem State.buildNa_rip (s : State) :
    (s.buildNa).rip = s.rip := rfl
@[simp] theorem State.buildNa_rport (s : State) :
    (s.buildNa).rport = s.rport := rfl
@[simp] theorem State.buildNa_txlog (s : State) :
    (s.buildNa).txlog = s.txlog := rfl
@[simp] theorem State.buildNa_params (s : State) :
    (s.buildNa).params = s.params := rfl
@[simp] theorem State.buildNa_epoch (s : State) :
    (s.buildNa).epoch = s.epoch := rfl
@[simp] theorem State.buildNa_host (s : State) :
    (s.buildNa).host = s.host := rfl
@[simp] theorem State.buildNa_rx (s : State) :
    (s.buildNa).rx = s.rx := rfl
@[simp] theorem State.buildNa_reads (s : State) :
    (s.buildNa).reads = s.reads := rfl

/-! ### prepareSend -/

@[simp] theorem State.prepareSend_en (s : State) :
    (s.prepareSend).en = s.en := rfl
@[simp] theorem State.prepareSend_status (s : State) :
    (s.prepareSend).status = s.status := rfl
@[simp] theorem State.prepareSend_rxlen (s : State) :
    (s.prepareSend).rxlen = s.rxlen := rfl
@[simp] theorem State.prepareSend_txlen (s : State) :
    (s.prepareSend).txlen = s.txlen := rfl
@[simp] theorem State.prepareSend_ckacc (s : State) :
    (s.prepareSend).ckacc = s.ckacc := rfl
@[simp] theorem State.prepareSend_ckres (s : State) :
    (s.prepareSend).ckres = s.ckres := rfl
@[simp] theorem State.prepareSend_hoplim (s : State) :
    (s.prepareSend).hoplim = s.hoplim := rfl
@[simp] theorem State.prepareSend_lmac (s : State) :
    (s.prepareSend).lmac = s.lmac := rfl
@[simp] theorem State.prepareSend_lip (s : State) :
    (s.prepareSend).lip = s.lip := rfl
@[simp] theorem State.prepareSend_lport (s : State) :
    (s.prepareSend).lport = s.lport := rfl
@[simp] theorem State.prepareSend_rmac (s : State) :
    (s.prepareSend).rmac = s.rmac := rfl
@[simp] theorem State.prepareSend_rip (s : State) :
    (s.prepareSend).rip = s.rip := rfl
@[simp] theorem State.prepareSend_rport (s : State) :
    (s.prepareSend).rport = s.rport := rfl
@[simp] theorem State.prepareSend_txlog (s : State) :
    (s.prepareSend).txlog = s.txlog := rfl
@[simp] theorem State.prepareSend_params (s : State) :
    (s.prepareSend).params = s.params := rfl
@[simp] theorem State.prepareSend_epoch (s : State) :
    (s.prepareSend).epoch = s.epoch := rfl
@[simp] theorem State.prepareSend_host (s : State) :
    (s.prepareSend).host = s.host := rfl
@[simp] theorem State.prepareSend_rx (s : State) :
    (s.prepareSend).rx = s.rx := rfl
@[simp] theorem State.prepareSend_reads (s : State) :
    (s.prepareSend).reads = s.reads := rfl

/-! ### buildEcho -/

@[simp] theorem State.buildEcho_en (s : State) :
    (s.buildEcho).en = s.en := rfl
@[simp] theorem State.buildEcho_status (s : State) :
    (s.buildEcho).status = s.status := rfl
@[simp] theorem State.buildEcho_rxlen (s : State) :
    (s.buildEcho).rxlen = s.rxlen := rfl
@[simp] theorem State.buildEcho_txlen (s : State) :
    (s.buildEcho).txlen = s.txlen := rfl
@[simp] theorem State.buildEcho_ckacc (s : State) :
    (s.buildEcho).ckacc = s.ckacc := rfl
@[simp] theorem State.buildEcho_ckres (s : State) :
    (s.buildEcho).ckres = s.ckres := rfl
@[simp] theorem State.buildEcho_hoplim (s : State) :
    (s.buildEcho).hoplim = s.hoplim := rfl
@[simp] theorem State.buildEcho_lmac (s : State) :
    (s.buildEcho).lmac = s.lmac := rfl
@[simp] theorem State.buildEcho_lip (s : State) :
    (s.buildEcho).lip = s.lip := rfl
@[simp] theorem State.buildEcho_lport (s : State) :
    (s.buildEcho).lport = s.lport := rfl
@[simp] theorem State.buildEcho_rmac (s : State) :
    (s.buildEcho).rmac = s.rmac := rfl
@[simp] theorem State.buildEcho_rip (s : State) :
    (s.buildEcho).rip = s.rip := rfl
@[simp] theorem State.buildEcho_rport (s : State) :
    (s.buildEcho).rport = s.rport := rfl
@[simp] theorem State.buildEcho_txlog (s : State) :
    (s.buildEcho).txlog = s.txlog := rfl
@[simp] theorem State.buildEcho_params (s : State) :
    (s.buildEcho).params = s.params := rfl
@[simp] theorem State.buildEcho_epoch (s : State) :
    (s.buildEcho).epoch = s.epoch := rfl
@[simp] theorem State.buildEcho_host (s : State) :
    (s.buildEcho).host = s.host := rfl
@[simp] theorem State.buildEcho_rx (s : State) :
    (s.buildEcho).rx = s.rx := rfl
@[simp] theorem State.buildEcho_reads (s : State) :
    (s.buildEcho).reads = s.reads := rfl

/-! ### buildUdp -/

@[simp] theorem State.buildUdp_en (s : State) (len sp dp : Half) :
    (s.buildUdp len sp dp).en = s.en := rfl
@[simp] theorem State.buildUdp_status (s : State) (len sp dp : Half) :
    (s.buildUdp len sp dp).status = s.status := rfl
@[simp] theorem State.buildUdp_rxlen (s : State) (len sp dp : Half) :
    (s.buildUdp len sp dp).rxlen = s.rxlen := rfl
@[simp] theorem State.buildUdp_txlen (s : State) (len sp dp : Half) :
    (s.buildUdp len sp dp).txlen = s.txlen := rfl
@[simp] theorem State.buildUdp_ckacc (s : State) (len sp dp : Half) :
    (s.buildUdp len sp dp).ckacc = s.ckacc := rfl
@[simp] theorem State.buildUdp_ckres (s : State) (len sp dp : Half) :
    (s.buildUdp len sp dp).ckres = s.ckres := rfl
@[simp] theorem State.buildUdp_hoplim (s : State) (len sp dp : Half) :
    (s.buildUdp len sp dp).hoplim = s.hoplim := rfl
@[simp] theorem State.buildUdp_lmac (s : State) (len sp dp : Half) :
    (s.buildUdp len sp dp).lmac = s.lmac := rfl
@[simp] theorem State.buildUdp_lip (s : State) (len sp dp : Half) :
    (s.buildUdp len sp dp).lip = s.lip := rfl
@[simp] theorem State.buildUdp_lport (s : State) (len sp dp : Half) :
    (s.buildUdp len sp dp).lport = s.lport := rfl
@[simp] theorem State.buildUdp_rmac (s : State) (len sp dp : Half) :
    (s.buildUdp len sp dp).rmac = s.rmac := rfl
@[simp] theorem State.buildUdp_rip (s : State) (len sp dp : Half) :
    (s.buildUdp len sp dp).rip = s.rip := rfl
@[simp] theorem State.buildUdp_rport (s : State) (len sp dp : Half) :
    (s.buildUdp len sp dp).rport = s.rport := rfl
@[simp] theorem State.buildUdp_txlog (s : State) (len sp dp : Half) :
    (s.buildUdp len sp dp).txlog = s.txlog := rfl
@[simp] theorem State.buildUdp_params (s : State) (len sp dp : Half) :
    (s.buildUdp len sp dp).params = s.params := rfl
@[simp] theorem State.buildUdp_epoch (s : State) (len sp dp : Half) :
    (s.buildUdp len sp dp).epoch = s.epoch := rfl
@[simp] theorem State.buildUdp_host (s : State) (len sp dp : Half) :
    (s.buildUdp len sp dp).host = s.host := rfl
@[simp] theorem State.buildUdp_rx (s : State) (len sp dp : Half) :
    (s.buildUdp len sp dp).rx = s.rx := rfl
@[simp] theorem State.buildUdp_reads (s : State) (len sp dp : Half) :
    (s.buildUdp len sp dp).reads = s.reads := rfl

/-! ### udpFinish -/

@[simp] theorem State.udpFinish_en (s : State) (len : Half) :
    (s.udpFinish len).en = s.en := by simp [State.udpFinish]
@[simp] theorem State.udpFinish_rxlen (s : State) (len : Half) :
    (s.udpFinish len).rxlen = s.rxlen := by simp [State.udpFinish]
@[simp] theorem State.udpFinish_hoplim (s : State) (len : Half) :
    (s.udpFinish len).hoplim = s.hoplim := by simp [State.udpFinish]
@[simp] theorem State.udpFinish_lmac (s : State) (len : Half) :
    (s.udpFinish len).lmac = s.lmac := by simp [State.udpFinish]
@[simp] theorem State.udpFinish_lip (s : State) (len : Half) :
    (s.udpFinish len).lip = s.lip := by simp [State.udpFinish]
@[simp] theorem State.udpFinish_lport (s : State) (len : Half) :
    (s.udpFinish len).lport = s.lport := by simp [State.udpFinish]
@[simp] theorem State.udpFinish_rmac (s : State) (len : Half) :
    (s.udpFinish len).rmac = s.rmac := by simp [State.udpFinish]
@[simp] theorem State.udpFinish_rip (s : State) (len : Half) :
    (s.udpFinish len).rip = s.rip := by simp [State.udpFinish]
@[simp] theorem State.udpFinish_rport (s : State) (len : Half) :
    (s.udpFinish len).rport = s.rport := by simp [State.udpFinish]
@[simp] theorem State.udpFinish_params (s : State) (len : Half) :
    (s.udpFinish len).params = s.params := by simp [State.udpFinish]
@[simp] theorem State.udpFinish_epoch (s : State) (len : Half) :
    (s.udpFinish len).epoch = s.epoch := by simp [State.udpFinish]
@[simp] theorem State.udpFinish_host (s : State) (len : Half) :
    (s.udpFinish len).host = s.host := by simp [State.udpFinish]
@[simp] theorem State.udpFinish_rx (s : State) (len : Half) :
    (s.udpFinish len).rx = s.rx := by simp [State.udpFinish]
@[simp] theorem State.udpFinish_reads (s : State) (len : Half) :
    (s.udpFinish len).reads = s.reads := by simp [State.udpFinish]

/-! ### nsReply -/

@[simp] theorem State.nsReply_en (s : State) :
    (s.nsReply).en = s.en := by simp [State.nsReply]
@[simp] theorem State.nsReply_rxlen (s : State) :
    (s.nsReply).rxlen = s.rxlen := by simp [State.nsReply]
@[simp] theorem State.nsReply_hoplim (s : State) :
    (s.nsReply).hoplim = s.hoplim := by simp [State.nsReply]
@[simp] theorem State.nsReply_lmac (s : State) :
    (s.nsReply).lmac = s.lmac := by simp [State.nsReply]
@[simp] theorem State.nsReply_lip (s : State) :
    (s.nsReply).lip = s.lip := by simp [State.nsReply]
@[simp] theorem State.nsReply_lport (s : State) :
    (s.nsReply).lport = s.lport := by simp [State.nsReply]
@[simp] theorem State.nsReply_rmac (s : State) :
    (s.nsReply).rmac = s.rmac := by simp [State.nsReply]
@[simp] theorem State.nsReply_rip (s : State) :
    (s.nsReply).rip = s.rip := by simp [State.nsReply]
@[simp] theorem State.nsReply_rport (s : State) :
    (s.nsReply).rport = s.rport := by simp [State.nsReply]
@[simp] theorem State.nsReply_params (s : State) :
    (s.nsReply).params = s.params := by simp [State.nsReply]
@[simp] theorem State.nsReply_epoch (s : State) :
    (s.nsReply).epoch = s.epoch := by simp [State.nsReply]
@[simp] theorem State.nsReply_host (s : State) :
    (s.nsReply).host = s.host := by simp [State.nsReply]
@[simp] theorem State.nsReply_rx (s : State) :
    (s.nsReply).rx = s.rx := by simp [State.nsReply]
@[simp] theorem State.nsReply_reads (s : State) :
    (s.nsReply).reads = s.reads := by simp [State.nsReply]

/-! ### echo -/

@[simp] theorem State.echo_en (s : State) (plen : Nat) :
    (s.echo plen).en = s.en := by simp [State.echo]
@[simp] theorem State.echo_rxlen (s : State) (plen : Nat) :
    (s.echo plen).rxlen = s.rxlen := by simp [State.echo]
@[simp] theorem State.echo_hoplim (s : State) (plen : Nat) :
    (s.echo plen).hoplim = s.hoplim := by simp [State.echo]
@[simp] theorem State.echo_lmac (s : State) (plen : Nat) :
    (s.echo plen).lmac = s.lmac := by simp [State.echo]
@[simp] theorem State.echo_lip (s : State) (plen : Nat) :
    (s.echo plen).lip = s.lip := by simp [State.echo]
@[simp] theorem State.echo_lport (s : State) (plen : Nat) :
    (s.echo plen).lport = s.lport := by simp [State.echo]
@[simp] theorem State.echo_rmac (s : State) (plen : Nat) :
    (s.echo plen).rmac = s.rmac := by simp [State.echo]
@[simp] theorem State.echo_rip (s : State) (plen : Nat) :
    (s.echo plen).rip = s.rip := by simp [State.echo]
@[simp] theorem State.echo_rport (s : State) (plen : Nat) :
    (s.echo plen).rport = s.rport := by simp [State.echo]
@[simp] theorem State.echo_params (s : State) (plen : Nat) :
    (s.echo plen).params = s.params := by simp [State.echo]
@[simp] theorem State.echo_epoch (s : State) (plen : Nat) :
    (s.echo plen).epoch = s.epoch := by simp [State.echo]
@[simp] theorem State.echo_host (s : State) (plen : Nat) :
    (s.echo plen).host = s.host := by simp [State.echo]
@[simp] theorem State.echo_rx (s : State) (plen : Nat) :
    (s.echo plen).rx = s.rx := by simp [State.echo]
@[simp] theorem State.echo_reads (s : State) (plen : Nat) :
    (s.echo plen).reads = s.reads := by simp [State.echo]

/-! ### load -/

@[simp] theorem State.load_en (s : State) (f : Frame) :
    (s.load f).en = s.en := rfl
@[simp] theorem State.load_txlen (s : State) (f : Frame) :
    (s.load f).txlen = s.txlen := rfl
@[simp] theorem State.load_ckacc (s : State) (f : Frame) :
    (s.load f).ckacc = s.ckacc := rfl
@[simp] theorem State.load_ckres (s : State) (f : Frame) :
    (s.load f).ckres = s.ckres := rfl
@[simp] theorem State.load_hoplim (s : State) (f : Frame) :
    (s.load f).hoplim = s.hoplim := rfl
@[simp] theorem State.load_lmac (s : State) (f : Frame) :
    (s.load f).lmac = s.lmac := rfl
@[simp] theorem State.load_lip (s : State) (f : Frame) :
    (s.load f).lip = s.lip := rfl
@[simp] theorem State.load_lport (s : State) (f : Frame) :
    (s.load f).lport = s.lport := rfl
@[simp] theorem State.load_rmac (s : State) (f : Frame) :
    (s.load f).rmac = s.rmac := rfl
@[simp] theorem State.load_rip (s : State) (f : Frame) :
    (s.load f).rip = s.rip := rfl
@[simp] theorem State.load_rport (s : State) (f : Frame) :
    (s.load f).rport = s.rport := rfl
@[simp] theorem State.load_txlog (s : State) (f : Frame) :
    (s.load f).txlog = s.txlog := rfl
@[simp] theorem State.load_params (s : State) (f : Frame) :
    (s.load f).params = s.params := rfl
@[simp] theorem State.load_epoch (s : State) (f : Frame) :
    (s.load f).epoch = s.epoch := rfl
@[simp] theorem State.load_host (s : State) (f : Frame) :
    (s.load f).host = s.host := rfl
@[simp] theorem State.load_rx (s : State) (f : Frame) :
    (s.load f).rx = s.rx := rfl
@[simp] theorem State.load_reads (s : State) (f : Frame) :
    (s.load f).reads = s.reads := rfl

/-! ### The fields of STATUS -/

@[simp] theorem State.setDisp_disp (s : State) (c : Disp) :
    (s.setDisp c).status.disp = c := rfl
@[simp] theorem State.setDisp_hold (s : State) (c : Disp) :
    (s.setDisp c).status.hold = s.status.hold := rfl
@[simp] theorem State.setDisp_ckok (s : State) (c : Disp) :
    (s.setDisp c).status.ckok = s.status.ckok := rfl
@[simp] theorem State.setDisp_cmderr (s : State) (c : Disp) :
    (s.setDisp c).status.cmderr = s.status.cmderr := rfl
@[simp] theorem State.setHold_disp (s : State) (h : Hold) :
    (s.setHold h).status.disp = s.status.disp := rfl
@[simp] theorem State.setHold_hold (s : State) (h : Hold) :
    (s.setHold h).status.hold = h := rfl
@[simp] theorem State.setHold_ckok (s : State) (h : Hold) :
    (s.setHold h).status.ckok = s.status.ckok := rfl
@[simp] theorem State.setHold_cmderr (s : State) (h : Hold) :
    (s.setHold h).status.cmderr = s.status.cmderr := rfl
@[simp] theorem State.setCkok_disp (s : State) (ok : Bool) :
    (s.setCkok ok).status.disp = s.status.disp := rfl
@[simp] theorem State.setCkok_hold (s : State) (ok : Bool) :
    (s.setCkok ok).status.hold = s.status.hold := rfl
@[simp] theorem State.setCkok_ckok (s : State) (ok : Bool) :
    (s.setCkok ok).status.ckok = ok := rfl
@[simp] theorem State.setCkok_cmderr (s : State) (ok : Bool) :
    (s.setCkok ok).status.cmderr = s.status.cmderr := rfl
@[simp] theorem State.setCmderr_disp (s : State) (e : CmdErr) :
    (s.setCmderr e).status.disp = s.status.disp := rfl
@[simp] theorem State.setCmderr_hold (s : State) (e : CmdErr) :
    (s.setCmderr e).status.hold = s.status.hold := rfl
@[simp] theorem State.setCmderr_ckok (s : State) (e : CmdErr) :
    (s.setCmderr e).status.ckok = s.status.ckok := rfl
@[simp] theorem State.setCmderr_cmderr (s : State) (e : CmdErr) :
    (s.setCmderr e).status.cmderr = e := rfl

/-! ### What the updates write -/

@[simp] theorem State.setByte_buf (s : State) (a : Nat) (v : Byte) :
    (s.setByte a v).buf = s.buf.write a v := rfl
@[simp] theorem State.memWrite_buf (s : State) (a : Nat) (v : List Byte) :
    (s.memWrite a v).buf = s.buf.writeList a v := rfl
@[simp] theorem State.setBe16_buf (s : State) (a : Nat) (v : Half) :
    (s.setBe16 a v).buf = s.buf.writeList a (be16Bytes v) := rfl
@[simp] theorem State.memWrites_buf (s : State) (ws : List (Nat × List Byte)) :
    (s.memWrites ws).buf = s.buf.writeAll ws := rfl
@[simp] theorem State.cksum_ckacc (s : State) (u : UpperLayer) (n : Nat) :
    (s.cksum u n).ckacc = BitVec.ofNat 32 (s.rawSum u n) := rfl
@[simp] theorem State.cksum_ckres (s : State) (u : UpperLayer) (n : Nat) :
    (s.cksum u n).ckres = BitVec.ofNat 16 (ckfinal (s.rawSum u n)) := rfl
@[simp] theorem State.fillCksum_ckacc (s : State) (u : UpperLayer) (n : Nat) :
    (s.fillCksum u n).ckacc = BitVec.ofNat 32 (s.rawSum u n) := rfl
@[simp] theorem State.fillCksum_ckres (s : State) (u : UpperLayer) (n : Nat) :
    (s.fillCksum u n).ckres = BitVec.ofNat 16 (ckfinal (s.rawSum u n)) := rfl
@[simp] theorem State.verify_ckacc (s : State) (u : UpperLayer) (n : Nat) :
    (s.verify u n).ckacc = BitVec.ofNat 32 (s.rawSum u n) := rfl
@[simp] theorem State.verify_ckres (s : State) (u : UpperLayer) (n : Nat) :
    (s.verify u n).ckres = BitVec.ofNat 16 (ckfinal (s.rawSum u n)) := rfl
@[simp] theorem State.verify_disp (s : State) (u : UpperLayer) (n : Nat) :
    (s.verify u n).status.disp = s.status.disp := rfl
@[simp] theorem State.verify_hold (s : State) (u : UpperLayer) (n : Nat) :
    (s.verify u n).status.hold = s.status.hold := rfl
@[simp] theorem State.verify_cmderr (s : State) (u : UpperLayer) (n : Nat) :
    (s.verify u n).status.cmderr = s.status.cmderr := rfl
@[simp] theorem State.tx_txlen (s : State) (n : Nat) : (s.tx n).txlen = BitVec.ofNat 16 n := rfl
@[simp] theorem State.tx_txlog (s : State) (n : Nat) :
    (s.tx n).txlog = s.txlog ++ [s.memRead 0 n] := rfl
@[simp] theorem State.dropAnswer_rx (s : State) : s.dropAnswer.rx = s.rx.tail := rfl
@[simp] theorem State.returned_reads (s : State) (v : RegVal) :
    (s.returned v).reads = s.reads ++ [v] := rfl
@[simp] theorem State.load_buf (s : State) (f : Frame) : (s.load f).buf = s.buf.writeList 0 f := rfl
@[simp] theorem State.load_rxlen (s : State) (f : Frame) :
    (s.load f).rxlen = BitVec.ofNat 16 f.length := rfl
@[simp] theorem State.load_disp (s : State) (f : Frame) :
    (s.load f).status.disp = s.status.disp := rfl
@[simp] theorem State.load_hold (s : State) (f : Frame) : (s.load f).status.hold = .none := rfl
@[simp] theorem State.load_ckok (s : State) (f : Frame) :
    (s.load f).status.ckok = s.status.ckok := rfl
@[simp] theorem State.load_cmderr (s : State) (f : Frame) :
    (s.load f).status.cmderr = s.status.cmderr := rfl
@[simp] theorem State.udpFinish_status (s : State) (len : Half) :
    (s.udpFinish len).status = { s.status with hold := .none, cmderr := .ok } := by
  have h : ((s.fillCksum .udp (len.toNat + 8)).tx (62 + len.toNat)).status = s.status := by
    simp only [State.tx_status, State.fillCksum_status]
  rw [← h]; rfl
@[simp] theorem State.nsReply_status (s : State) :
    s.nsReply.status = { s.status with disp := .repliedNa } := by
  have h : (((s.prepareReply s.lip.toList).buildNa.fillCksum .icmpv6 32).tx 86).status = s.status := by
    simp only [State.tx_status, State.fillCksum_status, State.buildNa_status, State.prepareReply_status]
  rw [← h]; rfl
@[simp] theorem State.echo_status (s : State) (plen : Nat) :
    (s.echo plen).status = { s.status with disp := .repliedEcho } := by
  have h : (((s.prepareReply (s.memRead 38 16)).buildEcho.fillCksum .icmpv6 plen).tx
      (54 + plen)).status = s.status := by
    simp only [State.tx_status, State.fillCksum_status, State.buildEcho_status,
      State.prepareReply_status]
  rw [← h]; rfl

end Sys2Proof.Machine
end

