-- ==== Sys2Proof/Laws/Buffer.lean ====
section
/-! SUPPORT. The packet buffer: what a read gives after a write, and that every write keeps the canonical
form and the offsets it had. -/

namespace Sys2Proof.Machine

/-! ## Cells -/

theorem Memory.read_write (m : Memory) (a x : Nat) (v : Byte) :
    (m.write a v).read x = if x = a then some v else m.read x := by
  induction m with
  | nil => by_cases h : x = a <;> simp [Memory.write, Memory.read, h]
  | cons c m ih =>
    obtain ⟨k, w⟩ := c
    simp only [Memory.write]
    split
    · simp only [Memory.read]
    · split
      · next h => subst h; simp only [Memory.read]; split <;> rfl
      · next h =>
        simp only [Memory.read, ih]
        split
        · next h' => subst h'; rw [if_neg (fun e => h e.symm)]
        · rfl

/-- The offsets of a buffer after a write are the old ones and the one written. -/
theorem Memory.mem_write {m : Memory} {a : Nat} {v : Byte} {c : Host.Cell} (h : c ∈ m.write a v) :
    c.1 = a ∨ c ∈ m := by
  induction m with
  | nil => simp only [Memory.write, List.mem_singleton] at h; exact .inl (by rw [h])
  | cons d m ih =>
    obtain ⟨k, w⟩ := d
    simp only [Memory.write] at h
    split at h
    · rcases List.mem_cons.mp h with rfl | h'
      · exact .inl rfl
      · exact .inr h'
    · split at h
      · rcases List.mem_cons.mp h with rfl | h'
        · exact .inl rfl
        · exact .inr (List.mem_cons_of_mem _ h')
      · rcases List.mem_cons.mp h with rfl | h'
        · exact .inr List.mem_cons_self
        · exact (ih h').imp id (List.mem_cons_of_mem _)

/-- A write keeps the canonical form. -/
theorem Memory.wf_write {m : Memory} (h : m.wf) (a : Nat) (v : Byte) : (m.write a v).wf := by
  induction m with
  | nil => simp [Memory.write, Memory.wf]
  | cons d m ih =>
    obtain ⟨k, w⟩ := d
    obtain ⟨hk, hm⟩ := List.pairwise_cons.mp h
    simp only [Memory.write]
    split
    · next lt =>
      refine List.pairwise_cons.mpr ⟨fun c hc => ?_, h⟩
      rcases List.mem_cons.mp hc with rfl | hc
      · exact lt
      · exact lt.trans (hk c hc)
    · split
      · next eq => subst eq; exact List.pairwise_cons.mpr ⟨hk, hm⟩
      · refine List.pairwise_cons.mpr ⟨fun c hc => ?_, ih hm⟩
        rcases Memory.mem_write hc with h' | h'
        · simp only; omega
        · exact hk c h'

theorem Memory.read_writeList (m : Memory) (a x : Nat) (vs : List Byte) :
    (m.writeList a vs).read x =
      if h : a ≤ x ∧ x < a + vs.length then some (vs[x - a]'(by omega)) else m.read x := by
  induction vs generalizing m a with
  | nil => rw [dif_neg (by simp only [List.length_nil]; omega)]; rfl
  | cons v vs ih =>
    simp only [Memory.writeList, ih, Memory.read_write, List.length_cons]
    by_cases h1 : x = a
    · subst h1
      rw [dif_neg (by omega), if_pos rfl, dif_pos (by omega)]
      simp
    · by_cases h2 : a + 1 ≤ x ∧ x < a + 1 + vs.length
      · rw [dif_pos h2, dif_pos (by omega)]
        congr 1
        rw [List.getElem_cons, dif_neg (by omega)]
        congr 1
      · rw [dif_neg h2, if_neg h1, dif_neg (by omega)]

theorem Memory.wf_writeList {m : Memory} (h : m.wf) (a : Nat) (vs : List Byte) :
    (m.writeList a vs).wf := by
  induction vs generalizing m a with
  | nil => exact h
  | cons v vs ih => exact ih (Memory.wf_write h a v) (a + 1)

theorem Memory.mem_writeList {m : Memory} {a : Nat} {vs : List Byte} {c : Host.Cell}
    (h : c ∈ m.writeList a vs) : (a ≤ c.1 ∧ c.1 < a + vs.length) ∨ c ∈ m := by
  induction vs generalizing m a with
  | nil => exact .inr h
  | cons v vs ih =>
    rcases ih h with h' | h'
    · exact .inl (by simp only [List.length_cons]; omega)
    · exact (Memory.mem_write h').imp (fun e => by simp only [List.length_cons]; omega) id

theorem Memory.wf_writeAll {m : Memory} (h : m.wf) (ws : List (Nat × List Byte)) :
    (m.writeAll ws).wf := by
  induction ws generalizing m with
  | nil => exact h
  | cons w ws ih => exact ih (Memory.wf_writeList h w.1 w.2)

theorem Memory.mem_writeAll {m : Memory} {ws : List (Nat × List Byte)} {c : Host.Cell}
    (h : c ∈ m.writeAll ws) : (∃ w ∈ ws, w.1 ≤ c.1 ∧ c.1 < w.1 + w.2.length) ∨ c ∈ m := by
  induction ws generalizing m with
  | nil => exact .inr h
  | cons w ws ih =>
    rcases ih h with ⟨w', hw', hc⟩ | h'
    · exact .inl ⟨w', List.mem_cons_of_mem _ hw', hc⟩
    · exact (Memory.mem_writeList h').imp (fun e => ⟨w, List.mem_cons_self, e⟩) id

/-! ## Bytes of the state -/

/-- A byte depends only on the buffer and the epoch. -/
theorem State.byte_congr {s t : State} (hb : t.buf = s.buf) (he : t.epoch = s.epoch) (a : Nat) :
    t.byte a = s.byte a := by
  unfold State.byte; rw [hb, he]

@[simp] theorem State.byte_setByte (s : State) (a x : Nat) (v : Byte) :
    (s.setByte a v).byte x = if x = a then v else s.byte x := by
  unfold State.byte
  rw [State.setByte_buf, Memory.read_write, State.setByte_epoch]
  by_cases h : x = a <;> simp [h]

theorem State.byte_memWrite (s : State) (a x : Nat) (vs : List Byte) :
    (s.memWrite a vs).byte x =
      if h : a ≤ x ∧ x < a + vs.length then vs[x - a]'(by omega) else s.byte x := by
  unfold State.byte
  rw [State.memWrite_buf, Memory.read_writeList, State.memWrite_epoch]
  by_cases h : a ≤ x ∧ x < a + vs.length <;> simp [h]

/-- Outside the bytes it writes, a write changes nothing. -/
theorem State.byte_memWrite_of_not {s : State} {a x : Nat} {vs : List Byte}
    (h : ¬ (a ≤ x ∧ x < a + vs.length)) : (s.memWrite a vs).byte x = s.byte x := by
  rw [State.byte_memWrite, dif_neg h]

@[simp] theorem State.memWrite_nil (s : State) (a : Nat) : s.memWrite a [] = s := rfl

theorem State.memWrite_cons (s : State) (a : Nat) (v : Byte) (vs : List Byte) :
    s.memWrite a (v :: vs) = (s.setByte a v).memWrite (a + 1) vs := rfl

theorem State.memWrites_cons (s : State) (w : Nat × List Byte) (ws : List (Nat × List Byte)) :
    s.memWrites (w :: ws) = (s.memWrite w.1 w.2).memWrites ws := rfl

@[simp] theorem State.memWrites_nil (s : State) : s.memWrites [] = s := rfl

theorem State.memWrites_append (s : State) (ws ws' : List (Nat × List Byte)) :
    s.memWrites (ws ++ ws') = (s.memWrites ws).memWrites ws' := by
  induction ws generalizing s with
  | nil => rfl
  | cons w ws ih => simp only [List.cons_append, State.memWrites_cons, ih]

/-- The last write decides: a byte the last write covers is its byte, any other is as before it. -/
theorem State.byte_memWrites_concat (s : State) (ws : List (Nat × List Byte)) (a : Nat)
    (v : List Byte) (x : Nat) :
    (s.memWrites (ws ++ [(a, v)])).byte x =
      if h : a ≤ x ∧ x < a + v.length then v[x - a]'(by omega) else (s.memWrites ws).byte x := by
  rw [State.memWrites_append]
  exact State.byte_memWrite _ a x v

/-- An offset that none of several writes covers keeps its byte. -/
theorem State.byte_memWrites_of_not {s : State} {ws : List (Nat × List Byte)} {x : Nat}
    (h : ∀ w ∈ ws, ¬ (w.1 ≤ x ∧ x < w.1 + w.2.length)) : (s.memWrites ws).byte x = s.byte x := by
  induction ws generalizing s with
  | nil => rfl
  | cons w ws ih =>
    rw [State.memWrites_cons, ih (fun w' hw' => h w' (List.mem_cons_of_mem _ hw')),
      State.byte_memWrite_of_not (h w List.mem_cons_self)]

@[simp] theorem be16Bytes_length (v : Half) : (be16Bytes v).length = 2 := rfl

@[simp] theorem State.memRead_length (s : State) (a n : Nat) : (s.memRead a n).length = n := by
  simp [State.memRead]

@[simp] theorem State.getElem_memRead (s : State) (a n i : Nat) (h : i < (s.memRead a n).length) :
    (s.memRead a n)[i] = s.byte (a + i) := by
  simp [State.memRead]

/-- Two runs of bytes are equal when their bytes are. -/
theorem State.memRead_congr {s t : State} {a b n : Nat}
    (h : ∀ i < n, s.byte (a + i) = t.byte (b + i)) : s.memRead a n = t.memRead b n := by
  apply List.ext_getElem (by simp)
  intro i h1 h2
  rw [State.getElem_memRead, State.getElem_memRead]
  exact h i (by simpa using h1)

/-- Reading back exactly what was written. -/
theorem State.memRead_eq_of_bytes {s : State} {a : Nat} {vs : List Byte}
    (h : ∀ i (hi : i < vs.length), s.byte (a + i) = vs[i]) : s.memRead a vs.length = vs := by
  apply List.ext_getElem (by simp)
  intro i h1 h2
  rw [State.getElem_memRead]
  exact h i h2

/-- R8: BE16(a) = 256*BUF[a] + BUF[a+1]. -/
theorem State.be16_toNat (s : State) (a : Nat) :
    (s.be16 a).toNat = 256 * (s.byte a).toNat + (s.byte (a + 1)).toNat := by
  have h := (s.byte (a + 1)).isLt
  unfold State.be16
  rw [BitVec.toNat_append, ← Nat.shiftLeft_add_eq_or_of_lt h, Nat.shiftLeft_eq]
  omega

/-- A 16-bit number is its two bytes. -/
theorem be16Bytes_append (v : Half) :
    (v.extractLsb' 8 8 ++ v.extractLsb' 0 8 : BitVec (8 + 8)) = v := by
  ext i hi
  simp only [BitVec.getElem_append, BitVec.getElem_extractLsb']
  split
  · simp [BitVec.getLsbD_eq_getElem hi]
  · have : 8 + (i - 8) = i := by omega
    rw [this, BitVec.getLsbD_eq_getElem hi]

/-- BE16(a) is the number whose two bytes stand at a and a+1. -/
theorem State.be16_eq_of_bytes {s : State} {a : Nat} {v : Half}
    (h0 : s.byte a = v.extractLsb' 8 8) (h1 : s.byte (a + 1) = v.extractLsb' 0 8) :
    s.be16 a = v := by
  unfold State.be16; rw [h0, h1, be16Bytes_append]

theorem State.be16_congr {s t : State} {a : Nat} (h0 : t.byte a = s.byte a)
    (h1 : t.byte (a + 1) = s.byte (a + 1)) : t.be16 a = s.be16 a := by
  unfold State.be16; rw [h0, h1]

theorem State.byte_setBe16 (s : State) (a x : Nat) (v : Half) :
    (s.setBe16 a v).byte x =
      if x = a then v.extractLsb' 8 8 else if x = a + 1 then v.extractLsb' 0 8 else s.byte x := by
  show ((s.setByte a _).setByte (a + 1) _).byte x = _
  rw [State.byte_setByte, State.byte_setByte]
  by_cases h : x = a + 1
  · subst h; simp
  · simp [h]

/-- A 16-bit field reads back what was written to it. -/
@[simp] theorem State.be16_setBe16 (s : State) (a : Nat) (v : Half) : (s.setBe16 a v).be16 a = v :=
  State.be16_eq_of_bytes (by rw [State.byte_setBe16, if_pos rfl])
    (by rw [State.byte_setBe16, if_neg (by omega), if_pos rfl])

/-! ## Bytes under the updates that leave the buffer alone -/

@[simp] theorem State.byte_setDisp (s : State) (c : Disp) (a : Nat) :
    (s.setDisp c).byte a = s.byte a := rfl
@[simp] theorem State.byte_setHold (s : State) (h : Hold) (a : Nat) :
    (s.setHold h).byte a = s.byte a := rfl
@[simp] theorem State.byte_setCkok (s : State) (ok : Bool) (a : Nat) :
    (s.setCkok ok).byte a = s.byte a := rfl
@[simp] theorem State.byte_setCmderr (s : State) (e : CmdErr) (a : Nat) :
    (s.setCmderr e).byte a = s.byte a := rfl
@[simp] theorem State.byte_tx (s : State) (n a : Nat) : (s.tx n).byte a = s.byte a := rfl
@[simp] theorem State.byte_cksum (s : State) (u : UpperLayer) (n a : Nat) :
    (s.cksum u n).byte a = s.byte a := rfl
@[simp] theorem State.byte_verify (s : State) (u : UpperLayer) (n a : Nat) :
    (s.verify u n).byte a = s.byte a := rfl
@[simp] theorem State.byte_dropAnswer (s : State) (a : Nat) : s.dropAnswer.byte a = s.byte a := rfl

/-- CKFILL's write: the two checksum bytes, nothing else. -/
theorem State.byte_fillCksum (s : State) (u : UpperLayer) (n x : Nat) :
    (s.fillCksum u n).byte x =
      if x = u.ckoff then (s.cksum u n).ckres.extractLsb' 8 8
      else if x = u.ckoff + 1 then (s.cksum u n).ckres.extractLsb' 0 8
      else s.byte x := by
  unfold State.fillCksum
  rw [State.byte_setBe16, State.byte_cksum]

/-- After a load the first L bytes are the frame, the others as before (R53). -/
theorem State.byte_load (s : State) (f : Frame) (x : Nat) :
    (s.load f).byte x = if h : x < f.length then f[x] else s.byte x := by
  show (s.memWrite 0 f).byte x = _
  rw [State.byte_memWrite]
  by_cases h : x < f.length
  · rw [dif_pos (by omega), dif_pos h]; rfl
  · rw [dif_neg (by omega), dif_neg h]

end Sys2Proof.Machine
end

