-- ==== Sys2Proof/Laws/Checksum.lean ====
section
/-! SUPPORT. The checksum unit: bounds of its sums, what folding keeps, and on which bytes a computation
depends. -/

namespace Sys2Proof.Machine

/-! ## Word sums -/

@[simp] theorem wordSum_nil : wordSum [] = 0 := rfl

@[simp] theorem wordSum_singleton (b : Byte) : wordSum [b] = 256 * b.toNat := rfl

@[simp] theorem wordSum_cons_cons (b c : Byte) (bs : List Byte) :
    wordSum (b :: c :: bs) = 256 * b.toNat + c.toNat + wordSum bs := by
  simp [wordSum, words]

/-- The weight of the byte at position `i` of a summed string (R110). -/
def byteWeight (i : Nat) : Nat := if i % 2 = 0 then 256 else 1

/-- Replacing one byte moves the sum by the byte's weight times the change. -/
theorem wordSum_set : ∀ (b : List Byte) (i : Nat) (h : i < b.length) (v : Byte),
    wordSum (b.set i v) + byteWeight i * b[i].toNat = wordSum b + byteWeight i * v.toNat
  | [x], 0, _, v => by simp [byteWeight]; omega
  | x :: y :: bs, 0, _, v => by simp [byteWeight]; omega
  | x :: y :: bs, 1, _, v => by simp [byteWeight]; omega
  | x :: y :: bs, i + 2, h, v => by
    have ih := wordSum_set bs i (by simpa using h) v
    have hw : byteWeight (i + 2) = byteWeight i := by simp [byteWeight]
    simp only [List.set_cons_succ, wordSum_cons_cons, List.getElem_cons_succ, hw]
    omega

/-- Each pair of bytes adds at most 0xFFFF. -/
theorem wordSum_le : ∀ b : List Byte, wordSum b ≤ 65535 * ((b.length + 1) / 2)
  | [] => by simp
  | [x] => by have := x.isLt; simp; omega
  | x :: y :: bs => by
    have ih := wordSum_le bs
    have hx := x.isLt
    have hy := y.isLt
    simp only [wordSum_cons_cons, List.length_cons]
    have : (bs.length + 1 + 1 + 1) / 2 = (bs.length + 1) / 2 + 1 := by omega
    rw [this]
    omega

/-! ## Folding -/

/-- One more round of fuel changes nothing once the number fits. -/
theorem foldLoop_of_le {s : Nat} (h : s ≤ 0xFFFF) (k : Nat) : foldLoop k s = s := by
  cases k with
  | zero => rfl
  | succ k => simp only [foldLoop]; rw [if_neg (by omega)]

/-- A round of the loop, while there is a carry. -/
theorem foldLoop_of_lt {s k : Nat} (h : 0xFFFF < s) (hk : k ≠ 0) :
    foldLoop k s = foldLoop (k - 1) (s % 65536 + s / 65536) := by
  cases k with
  | zero => exact absurd rfl hk
  | succ k => simp only [foldLoop, if_pos h, Nat.add_sub_cancel]

/-- Fuel of `s` or more gives the same number. -/
theorem foldLoop_fuel : ∀ (s k : Nat), s ≤ k → foldLoop k s = foldLoop s s := by
  intro s
  induction s using Nat.strongRecOn with
  | ind s ih =>
    intro k hk
    by_cases h : 0xFFFF < s
    · rw [foldLoop_of_lt h (by omega), foldLoop_of_lt h (by omega)]
      rw [ih _ (by omega) (k - 1) (by omega), ih _ (by omega) (s - 1) (by omega)]
    · rw [foldLoop_of_le (by omega), foldLoop_of_le (by omega)]

/-- The loop of R112, one round at a time. -/
theorem fold_eq (s : Nat) : fold s = if 0xFFFF < s then fold (s % 65536 + s / 65536) else s := by
  unfold fold
  split
  · next h => rw [foldLoop_of_lt h (by omega)]; exact foldLoop_fuel _ _ (by omega)
  · next h => exact foldLoop_of_le (by omega) s

/-- What folding keeps: the result fits 16 bits, is zero only for zero, and has the residue mod 65535. -/
theorem fold_spec (s : Nat) :
    fold s ≤ 0xFFFF ∧ (fold s = 0 → s = 0) ∧ fold s % 65535 = s % 65535 := by
  induction s using Nat.strongRecOn with
  | ind s ih =>
    rw [fold_eq]
    split
    · next h =>
      obtain ⟨h1, h2, h3⟩ := ih (s % 65536 + s / 65536) (by omega)
      refine ⟨h1, fun h0 => ?_, ?_⟩
      · have := h2 h0; omega
      · rw [h3]; omega
    · exact ⟨by omega, id, rfl⟩

/-- Folding tells two positive sums apart exactly by their residue mod 65535. -/
theorem fold_eq_fold_iff {s t : Nat} (hs : 0 < s) (ht : 0 < t) :
    fold s = fold t ↔ s % 65535 = t % 65535 := by
  obtain ⟨a1, a2, a3⟩ := fold_spec s
  obtain ⟨b1, b2, b3⟩ := fold_spec t
  have a0 : fold s ≠ 0 := fun h => by have := a2 h; omega
  have b0 : fold t ≠ 0 := fun h => by have := b2 h; omega
  constructor
  · intro h; rw [← a3, ← b3, h]
  · intro h; rw [← a3, ← b3] at h; omega

/-- The final checksum is a 16-bit number and never zero. -/
theorem ckfinal_spec (s : Nat) : ckfinal s ≤ 0xFFFF ∧ ckfinal s ≠ 0 := by
  unfold ckfinal; split <;> omega

/-- On sums that are not zero, the final checksum tells the folded sums apart. -/
theorem ckfinal_eq_iff {s t : Nat} (hs : 0 < s) (ht : 0 < t) :
    ckfinal s = ckfinal t ↔ fold s = fold t := by
  obtain ⟨a1, a2, -⟩ := fold_spec s
  obtain ⟨b1, b2, -⟩ := fold_spec t
  have a0 : fold s ≠ 0 := fun h => by have := a2 h; omega
  have b0 : fold t ≠ 0 := fun h => by have := b2 h; omega
  unfold ckfinal
  constructor
  · intro h; split at h <;> split at h <;> omega
  · intro h; rw [h]

/-! ## A computation -/

@[simp] theorem State.segBytes_length (s : State) (n ckoff : Nat) :
    (s.segBytes n ckoff).length = n := by simp [State.segBytes]

theorem State.getElem_segBytes (s : State) (n ckoff i : Nat)
    (h : i < (s.segBytes n ckoff).length) :
    (s.segBytes n ckoff)[i] =
      if 54 + i = ckoff ∨ 54 + i = ckoff + 1 then 0 else s.byte (54 + i) := by
  simp [State.segBytes]

/-- The next-header term keeps every raw sum positive (R118, law 4). -/
theorem State.rawSum_pos (s : State) (u : UpperLayer) (n : Nat) : 0 < s.rawSum u n := by
  have : 0 < u.nh.toNat := by cases u <;> decide
  unfold State.rawSum State.pseudoSum
  omega

/-- The bound of R113 for segments of at most 65535 bytes. -/
theorem State.rawSum_lt (s : State) (u : UpperLayer) {n : Nat} (hn : n ≤ 65535) :
    s.rawSum u n < 2 ^ 32 := by
  have h1 := wordSum_le (s.memRead 22 16)
  have h2 := wordSum_le (s.memRead 38 16)
  have h3 := wordSum_le (s.segBytes n u.ckoff)
  have h4 := u.nh.isLt
  simp only [State.memRead_length, State.segBytes_length] at h1 h2 h3
  unfold State.rawSum State.pseudoSum State.segSum
  omega

/-- A computation depends only on the two addresses and on the segment outside its checksum field. -/
theorem State.rawSum_congr {s t : State} {u : UpperLayer} {n : Nat}
    (haddr : ∀ a, 22 ≤ a → a < 54 → t.byte a = s.byte a)
    (hseg : ∀ a, 54 ≤ a → a < 54 + n → a ≠ u.ckoff → a ≠ u.ckoff + 1 → t.byte a = s.byte a) :
    t.rawSum u n = s.rawSum u n := by
  have h1 : t.memRead 22 16 = s.memRead 22 16 :=
    State.memRead_congr fun i hi => haddr _ (by omega) (by omega)
  have h2 : t.memRead 38 16 = s.memRead 38 16 :=
    State.memRead_congr fun i hi => haddr _ (by omega) (by omega)
  have h3 : t.segBytes n u.ckoff = s.segBytes n u.ckoff := by
    apply List.ext_getElem (by simp)
    intro i hi _
    rw [State.getElem_segBytes, State.getElem_segBytes]
    split
    · rfl
    · next h =>
      rw [State.segBytes_length] at hi
      exact hseg _ (by omega) (by omega) (by omega) (by omega)
  unfold State.rawSum State.pseudoSum State.segSum
  rw [h1, h2, h3]

theorem State.rawSum_eq_of_byte {s t : State} (h : ∀ a, t.byte a = s.byte a) (u : UpperLayer)
    (n : Nat) : t.rawSum u n = s.rawSum u n :=
  State.rawSum_congr (fun a _ _ => h a) (fun a _ _ _ _ => h a)

/-- The final value of a computation as a number. -/
theorem State.cksum_ckres_toNat (s : State) (u : UpperLayer) (n : Nat) :
    (s.cksum u n).ckres.toNat = ckfinal (s.rawSum u n) := by
  have := (ckfinal_spec (s.rawSum u n)).1
  rw [State.cksum_ckres, BitVec.toNat_ofNat, Nat.mod_eq_of_lt (by omega)]

/-- A verification matches exactly when the received field is the recomputed checksum. -/
theorem State.verify_ckok (s : State) (u : UpperLayer) (n : Nat) :
    (s.verify u n).status.ckok = true ↔ s.be16 u.ckoff = (s.cksum u n).ckres := by
  show ((s.cksum u n).ckres == s.be16 u.ckoff) = true ↔ _
  rw [beq_iff_eq]
  exact eq_comm

/-- A checksum written into its own field verifies (R118, law 3). -/
theorem State.verify_of_field {s t : State} {u : UpperLayer} {n : Nat}
    (hfield : t.be16 u.ckoff = (s.cksum u n).ckres) (hraw : t.rawSum u n = s.rawSum u n) :
    (t.verify u n).status.ckok = true := by
  rw [State.verify_ckok, hfield, State.cksum_ckres, State.cksum_ckres, hraw]

/-- Filling the field does not move the sum. -/
theorem State.rawSum_fillCksum (s : State) (u : UpperLayer) (n : Nat) :
    (s.fillCksum u n).rawSum u n = s.rawSum u n := by
  have hu : 54 ≤ u.ckoff := by cases u <;> decide
  refine State.rawSum_congr (fun a h1 h2 => ?_) (fun a h1 h2 h3 h4 => ?_) <;>
    rw [State.byte_fillCksum, if_neg (by omega), if_neg (by omega)]

/-- The field holds the computed checksum after a fill. -/
theorem State.be16_fillCksum (s : State) (u : UpperLayer) (n : Nat) :
    (s.fillCksum u n).be16 u.ckoff = (s.cksum u n).ckres := by
  unfold State.fillCksum; rw [State.be16_setBe16]

end Sys2Proof.Machine
end

