-- ==== Sys2Proof/Laws/Build.lean ====
section
/-! SUPPORT. The header builders: what the buffer holds after several writes to separate places, and what
each builder of R133, R136, R139, R156 and R158 leaves in each field. -/

namespace Sys2Proof.Machine

/-! ## Writes to separate places -/

/-- No two of the writes touch the same offset. -/
def Separate (ws : List (Nat × List Byte)) : Prop :=
  ws.Pairwise fun w w' => w.1 + w.2.length ≤ w'.1 ∨ w'.1 + w'.2.length ≤ w.1

/-- Each of several separate writes reads back whole. -/
theorem State.memRead_memWrites {s : State} {ws : List (Nat × List Byte)} (hd : Separate ws)
    {a : Nat} {v : List Byte} (h : (a, v) ∈ ws) : (s.memWrites ws).memRead a v.length = v := by
  induction ws generalizing s with
  | nil => cases h
  | cons w ws ih =>
    obtain ⟨hw, hws⟩ := List.pairwise_cons.mp hd
    rw [State.memWrites_cons]
    rcases List.mem_cons.mp h with rfl | h
    · refine State.memRead_eq_of_bytes fun i hi => ?_
      rw [State.byte_memWrites_of_not (fun w' hw' => by have := hw w' hw'; simp only at this; omega),
        State.byte_memWrite, dif_pos ⟨by omega, by simp only; omega⟩]
      congr 1
      simp only
      omega
    · exact ih hws h

/-- A 16-bit field among separate writes reads back. -/
theorem State.be16_memWrites {s : State} {ws : List (Nat × List Byte)} (hd : Separate ws)
    {a : Nat} {v : Half} (h : (a, be16Bytes v) ∈ ws) : (s.memWrites ws).be16 a = v := by
  have e := State.memRead_memWrites (s := s) hd h
  have e' : [(s.memWrites ws).byte a, (s.memWrites ws).byte (a + 1)] =
      [v.extractLsb' 8 8, v.extractLsb' 0 8] := e
  injection e' with h0 e'
  injection e' with h1 _
  exact State.be16_eq_of_bytes h0 h1

/-- A byte field among separate writes reads back. -/
theorem State.byte_memWrites {s : State} {ws : List (Nat × List Byte)} (hd : Separate ws)
    {a : Nat} {v : Byte} (h : (a, [v]) ∈ ws) : (s.memWrites ws).byte a = v := by
  have e : [(s.memWrites ws).byte a] = [v] := State.memRead_memWrites (s := s) hd h
  injection e

/-! ## The builders -/

theorem State.prepareReply_separate (s : State) {ip : List Byte} (hip : ip.length = 16) :
    Separate [(0, s.memRead 6 6), (6, s.lmac.toList), (12, [0x86, 0xDD]),
      (14, [0x60, 0x00, 0x00, 0x00]), (21, [s.hoplim]), (38, s.memRead 22 16), (22, ip)] := by
  simp [Separate, hip]

/-- What a prepared reply holds (R133): back to the sender, from LMAC and the given address. -/
theorem State.prepareReply_spec (s : State) {ip : List Byte} (hip : ip.length = 16) :
    (s.prepareReply ip).memRead 0 6 = s.memRead 6 6 ∧
    (s.prepareReply ip).memRead 6 6 = s.lmac.toList ∧
    (s.prepareReply ip).be16 12 = 0x86DD ∧
    (s.prepareReply ip).memRead 14 4 = [0x60, 0x00, 0x00, 0x00] ∧
    (s.prepareReply ip).byte 21 = s.hoplim ∧
    (s.prepareReply ip).memRead 22 16 = ip ∧
    (s.prepareReply ip).memRead 38 16 = s.memRead 22 16 ∧
    ∀ a, 54 ≤ a ∨ 18 ≤ a ∧ a < 21 → (s.prepareReply ip).byte a = s.byte a := by
  have hd := s.prepareReply_separate hip
  have r : ∀ (a n : Nat) (v : List Byte), v.length = n → (a, v) ∈ [(0, s.memRead 6 6),
      (6, s.lmac.toList), (12, [0x86, 0xDD]), (14, [0x60, 0x00, 0x00, 0x00]), (21, [s.hoplim]),
      (38, s.memRead 22 16), (22, ip)] → (s.prepareReply ip).memRead a n = v :=
    fun a n v hn h => hn ▸ State.memRead_memWrites hd h
  refine ⟨r _ _ _ (by simp) (by simp), r _ _ _ (by simp) (by simp), ?_,
    r _ _ _ (by simp) (by simp), State.byte_memWrites hd (by simp), r _ _ _ hip (by simp),
    r _ _ _ (by simp) (by simp), fun a h => ?_⟩
  · exact State.be16_memWrites (v := 0x86DD) hd (by simp [be16Bytes])
  · refine State.byte_memWrites_of_not ?_
    simp [hip]
    omega

/-- What UDPSEND's own header fields hold (R156). -/
theorem State.prepareSend_spec (s : State) :
    s.prepareSend.memRead 0 6 = s.rmac.toList ∧
    s.prepareSend.memRead 6 6 = s.lmac.toList ∧
    s.prepareSend.be16 12 = 0x86DD ∧
    s.prepareSend.memRead 14 4 = [0x60, 0x00, 0x00, 0x00] ∧
    s.prepareSend.byte 21 = s.hoplim ∧
    s.prepareSend.memRead 22 16 = s.lip.toList ∧
    s.prepareSend.memRead 38 16 = s.rip.toList ∧
    ∀ a, 54 ≤ a ∨ 18 ≤ a ∧ a < 21 → s.prepareSend.byte a = s.byte a := by
  have hd : Separate [(0, s.rmac.toList), (6, s.lmac.toList), (12, [0x86, 0xDD]),
      (14, [0x60, 0x00, 0x00, 0x00]), (21, [s.hoplim]), (22, s.lip.toList), (38, s.rip.toList)] := by
    simp [Separate]
  have r : ∀ (a n : Nat) (v : List Byte), v.length = n → (a, v) ∈ [(0, s.rmac.toList),
      (6, s.lmac.toList), (12, [0x86, 0xDD]), (14, [0x60, 0x00, 0x00, 0x00]), (21, [s.hoplim]),
      (22, s.lip.toList), (38, s.rip.toList)] → s.prepareSend.memRead a n = v :=
    fun a n v hn h => hn ▸ State.memRead_memWrites hd h
  refine ⟨r _ _ _ (by simp) (by simp), r _ _ _ (by simp) (by simp), ?_,
    r _ _ _ (by simp) (by simp), State.byte_memWrites hd (by simp), r _ _ _ (by simp) (by simp),
    r _ _ _ (by simp) (by simp), fun a h => ?_⟩
  · exact State.be16_memWrites (v := 0x86DD) hd (by simp [be16Bytes])
  · refine State.byte_memWrites_of_not ?_
    simp
    omega

/-- What R136 writes over a prepared reply. -/
theorem State.buildNa_spec (s : State) :
    s.buildNa.be16 18 = 32 ∧ s.buildNa.byte 20 = 58 ∧ s.buildNa.memRead 54 2 = [136, 0] ∧
    s.buildNa.memRead 58 4 = [s.params.naFlags, 0, 0, 0] ∧ s.buildNa.memRead 78 2 = [2, 1] ∧
    s.buildNa.memRead 80 6 = s.lmac.toList ∧
    ∀ a, 86 ≤ a ∨ a < 18 ∨ 21 ≤ a ∧ a < 54 ∨ a = 56 ∨ a = 57 ∨ 62 ≤ a ∧ a < 78 →
      s.buildNa.byte a = s.byte a := by
  have hd : Separate [(18, be16Bytes 32), (20, [58]), (54, [136, 0]),
      (58, [s.params.naFlags, 0, 0, 0]), (78, [2, 1]), (80, s.lmac.toList)] := by
    simp [Separate]
  have r : ∀ (a n : Nat) (v : List Byte), v.length = n → (a, v) ∈ [(18, be16Bytes 32), (20, [58]),
      (54, [136, 0]), (58, [s.params.naFlags, 0, 0, 0]), (78, [2, 1]), (80, s.lmac.toList)] →
      s.buildNa.memRead a n = v :=
    fun a n v hn h => hn ▸ State.memRead_memWrites hd h
  refine ⟨State.be16_memWrites hd (by simp), State.byte_memWrites hd (by simp),
    r _ _ _ rfl (by simp), r _ _ _ rfl (by simp), r _ _ _ rfl (by simp),
    r _ _ _ (by simp) (by simp), fun a h => ?_⟩
  refine State.byte_memWrites_of_not ?_
  simp
  omega

/-- What R139 writes over a prepared reply. -/
theorem State.buildEcho_spec (s : State) :
    s.buildEcho.byte 20 = 58 ∧ s.buildEcho.memRead 54 2 = [129, 0] ∧
    ∀ a, a ≠ 20 ∧ a ≠ 54 ∧ a ≠ 55 → s.buildEcho.byte a = s.byte a := by
  have hd : Separate [(20, [58]), (54, [129, 0])] := by simp [Separate]
  refine ⟨State.byte_memWrites hd (by simp), State.memRead_memWrites (v := [129, 0]) hd (by simp),
    fun a h => ?_⟩
  refine State.byte_memWrites_of_not ?_
  simp
  omega

/-- What both sends write over their prepared headers (R156, R158). -/
theorem State.buildUdp_spec (s : State) (len sport dport : Half) :
    (s.buildUdp len sport dport).be16 18 = len + 8 ∧ (s.buildUdp len sport dport).byte 20 = 17 ∧
    (s.buildUdp len sport dport).be16 54 = sport ∧ (s.buildUdp len sport dport).be16 56 = dport ∧
    (s.buildUdp len sport dport).be16 58 = len + 8 ∧
    ∀ a, a < 18 ∨ 21 ≤ a ∧ a < 54 ∨ 60 ≤ a → (s.buildUdp len sport dport).byte a = s.byte a := by
  have hd : Separate [(18, be16Bytes (len + 8)), (20, [17]), (54, be16Bytes sport),
      (56, be16Bytes dport), (58, be16Bytes (len + 8))] := by
    simp [Separate]
  refine ⟨State.be16_memWrites hd (by simp), State.byte_memWrites hd (by simp),
    State.be16_memWrites hd (by simp), State.be16_memWrites hd (by simp),
    State.be16_memWrites hd (by simp), fun a h => ?_⟩
  refine State.byte_memWrites_of_not ?_
  simp
  omega

/-! ## From a builder to the frame sent -/

/-- A run of bytes survives a checksum fill it does not overlap. -/
theorem State.memRead_fillCksum (s : State) (u : UpperLayer) (n : Nat) {a k : Nat}
    (h : a + k ≤ u.ckoff ∨ u.ckoff + 2 ≤ a) : (s.fillCksum u n).memRead a k = s.memRead a k := by
  refine State.memRead_congr fun i hi => ?_
  rw [State.byte_fillCksum, if_neg (by omega), if_neg (by omega)]

/-- The originated header depends on BUF[0 .. 53], LMAC and HOPLIM only. -/
theorem OriginatedHeader.congr {s t : State} {dmac : List Byte} {plen : Nat} {nh : Byte}
    {src dst : List Byte} (h : OriginatedHeader s dmac plen nh src dst)
    (hb : ∀ a, a < 54 → t.byte a = s.byte a) (hm : t.lmac = s.lmac) (hh : t.hoplim = s.hoplim) :
    OriginatedHeader t dmac plen nh src dst := by
  have m : ∀ a k, a + k ≤ 54 → t.memRead a k = s.memRead a k := fun a k hk =>
    State.memRead_congr fun i hi => hb _ (by omega)
  have b : ∀ a, a + 2 ≤ 54 → t.be16 a = s.be16 a := fun a ha =>
    State.be16_congr (hb _ (by omega)) (hb _ (by omega))
  exact ⟨(m 0 6 (by omega)).trans h.ethDst, (m 6 6 (by omega)).trans (by rw [h.ethSrc, hm]),
    (b 12 (by omega)).trans h.ethType, (m 14 4 (by omega)).trans h.vtf,
    (by rw [b 18 (by omega)]; exact h.plenField), (hb 20 (by omega)).trans h.nextHeader,
    (hb 21 (by omega)).trans (by rw [h.hopLimit, hh]), (m 22 16 (by omega)).trans h.ipSrc,
    (m 38 16 (by omega)).trans h.ipDst⟩

/-- A prepared frame whose PLEN and next header were then written is an originated header. -/
theorem OriginatedHeader.of_prepared {p t : State} {dmac src dst : List Byte} {plen : Nat}
    {nh : Byte} (h0 : p.memRead 0 6 = dmac) (h1 : p.memRead 6 6 = t.lmac.toList)
    (h2 : p.be16 12 = 0x86DD) (h3 : p.memRead 14 4 = [0x60, 0x00, 0x00, 0x00])
    (h4 : p.byte 21 = t.hoplim) (h5 : p.memRead 22 16 = src) (h6 : p.memRead 38 16 = dst)
    (hl : (t.be16 18).toNat = plen) (hn : t.byte 20 = nh)
    (hb : ∀ a, a < 18 ∨ 21 ≤ a ∧ a < 54 → t.byte a = p.byte a) :
    OriginatedHeader t dmac plen nh src dst := by
  have m : ∀ a k, a + k ≤ 18 ∨ 21 ≤ a ∧ a + k ≤ 54 → t.memRead a k = p.memRead a k := fun a k hk =>
    State.memRead_congr fun i hi => hb _ (by omega)
  exact ⟨(m _ _ (by omega)).trans h0, (m _ _ (by omega)).trans h1,
    (State.be16_congr (hb _ (by omega)) (hb _ (by omega))).trans h2, (m _ _ (by omega)).trans h3, hl,
    hn, (hb _ (by omega)).trans h4, (m _ _ (by omega)).trans h5, (m _ _ (by omega)).trans h6⟩

/-- CKACC and CKRES after a fill are those of the segment the buffer then holds (R116). -/
theorem State.computed_fillCksum (s : State) (u : UpperLayer) {n : Nat} (hn : n ≤ 65535) :
    Computed (s.fillCksum u n) u n := by
  have h1 := s.rawSum_lt u hn
  have h2 := s.cksum_ckres_toNat u n
  refine ⟨?_, ?_⟩
  · rw [State.rawSum_fillCksum]
    show (BitVec.ofNat 32 _).toNat = _
    rw [BitVec.toNat_ofNat, Nat.mod_eq_of_lt h1]
  · rw [State.rawSum_fillCksum]
    exact h2

/-- The bytes after a send's end: the checksum field filled, nothing else. -/
theorem State.byte_udpFinish (s : State) (len : Half) (a : Nat) :
    (s.udpFinish len).byte a = (s.fillCksum .udp (len.toNat + 8)).byte a := by
  rw [State.udpFinish, State.byte_setCmderr, State.byte_setHold, State.byte_tx]

/-- The end both sends share (R156, R158): checksum filled and shown, the frame transmitted, HOLD cleared,
CMDERR = OK. -/
theorem State.udpFinish_spec (s : State) {len : Half} (hl : len.toNat + 62 ≤ s.bufSize) :
    (∀ a, a ≠ 60 → a ≠ 61 → (s.udpFinish len).byte a = s.byte a) ∧
    (s.udpFinish len).be16 60 = (s.udpFinish len).ckres ∧
    Computed (s.udpFinish len) .udp (len.toNat + 8) ∧
    Transmitted s (s.udpFinish len) (62 + len.toNat) ∧
    SameConfig s (s.udpFinish len) := by
  have hb := s.params.bufSize_le
  have hb2 : s.bufSize = s.params.bufSize := rfl
  have hbyte := s.byte_udpFinish len
  have hres : (s.udpFinish len).ckres = (s.cksum .udp (len.toNat + 8)).ckres := by
    simp [State.udpFinish]
  refine ⟨fun a h1 h2 => ?_, ?_, ?_, ⟨?_, ?_⟩, ?_⟩
  · rw [hbyte, State.byte_fillCksum]
    exact (if_neg h1).trans (if_neg h2)
  · rw [State.be16_congr (hbyte 60) (hbyte 61), hres]
    exact State.be16_fillCksum s .udp _
  · have h := s.computed_fillCksum .udp (n := len.toNat + 8) (by omega)
    have hr := State.rawSum_eq_of_byte hbyte .udp (len.toNat + 8)
    unfold Computed at h ⊢
    rw [hr]
    simpa [State.udpFinish] using h
  · rw [State.memRead_congr (t := s.fillCksum .udp (len.toNat + 8)) fun i _ => hbyte _]
    simp [State.udpFinish]
  · have : (s.udpFinish len).txlen = BitVec.ofNat 16 (62 + len.toNat) := by simp [State.udpFinish]
    rw [this, BitVec.toNat_ofNat, Nat.mod_eq_of_lt (by omega)]
  · constructor <;> simp

/-! ## The two replies -/

/-- The answer to a Solicitation (R136), field by field. -/
theorem State.nsReply_spec (s : State) :
  OriginatedHeader s.nsReply (s.memRead 6 6) 32 58 s.lip.toList (s.memRead 22 16) ∧
  s.nsReply.memRead 54 2 = [136, 0] ∧ s.nsReply.be16 56 = s.nsReply.ckres ∧
      s.nsReply.memRead 58 4 = [s.params.naFlags, 0, 0, 0] ∧ s.nsReply.memRead 62 16 = s.memRead 62 16 ∧
      s.nsReply.memRead 78 2 = [2, 1] ∧ s.nsReply.memRead 80 6 = s.lmac.toList ∧
      (∀ a, 86 ≤ a → s.nsReply.byte a = s.byte a) ∧
      Computed s.nsReply .icmpv6 32 ∧ Transmitted s s.nsReply 86 := by
  obtain ⟨h0,h1,h2,h3,h4,h5,h6,h7⟩ := s.prepareReply_spec (ip := s.lip.toList) (by simp)
  set p := s.prepareReply s.lip.toList with hp
  obtain ⟨b1,b2,b3,b4,b5,b6,b7⟩ := p.buildNa_spec
  set b := p.buildNa with hb
  have hbyte : ∀ a, s.nsReply.byte a = (b.fillCksum .icmpv6 32).byte a := by
    intro a; rw [State.nsReply, State.byte_setDisp, State.byte_tx]
  have hf : ∀ a, a ≠ 56 → a ≠ 57 → s.nsReply.byte a = b.byte a := by
    intro a g1 g2
    rw [hbyte, State.byte_fillCksum]
    exact (if_neg g1).trans (if_neg g2)
  have hres : s.nsReply.ckres = (b.cksum .icmpv6 32).ckres := by simp [State.nsReply, hb, hp]
  have m : ∀ a k, a + k ≤ 56 ∨ 58 ≤ a → s.nsReply.memRead a k = b.memRead a k := fun a k h =>
     State.memRead_congr fun i hi => hf _ (by omega) (by omega)
  refine ⟨?_, ?_, ?_, ?_, ?_, ?_, ?_, ?_, ?_, ?_, ?_⟩
  · refine OriginatedHeader.of_prepared h0 (by rw [h1]; simp) h2 h3 (by rw [h4]; simp) h5 h6 ?_ ?_ ?_
    · rw [State.be16_congr (hf _ (by omega) (by omega)) (hf _ (by omega) (by omega)), b1]; rfl
    · rw [hf _ (by omega) (by omega), b2]
    · intro a ha; rw [hf _ (by omega) (by omega), b7 _ (by omega)]
  · rw [m _ _ (by omega), b3]
  · rw [State.be16_congr (hbyte 56) (hbyte 57), hres]
    exact State.be16_fillCksum b .icmpv6 _
  · rw [m _ _ (by omega), b4]; simp [hp]
  · rw [m _ _ (by omega)]
    exact State.memRead_congr fun i hi => by rw [b7 _ (by omega), h7 _ (by omega)]
  · rw [m _ _ (by omega), b5]
  · rw [m _ _ (by omega), b6]; simp [hp]
  · intro a ha; rw [hf _ (by omega) (by omega), b7 _ (by omega), h7 _ (by omega)]
  · have h := b.computed_fillCksum .icmpv6 (n := 32) (by omega)
    have hr := State.rawSum_eq_of_byte hbyte .icmpv6 32
    unfold Computed at h ⊢
    rw [hr]
    simpa [State.nsReply, hb, hp] using h
  · rw [State.memRead_congr (t := b.fillCksum .icmpv6 32) fun i _ => hbyte _]
    simp [State.nsReply, hb, hp]
  · simp [State.nsReply]

/-- The answer to an Echo Request (R139), field by field. -/
theorem State.echo_spec (s : State) {n : Nat} (hn : n ≤ 65535 - 54) (hpl : s.plen = n) :
  OriginatedHeader (s.echo n) (s.memRead 6 6) n 58 (s.memRead 38 16) (s.memRead 22 16) ∧
  (s.echo n).memRead 54 2 = [129, 0] ∧ (s.echo n).be16 56 = (s.echo n).ckres ∧
      (∀ a, 58 ≤ a → (s.echo n).byte a = s.byte a) ∧
      Computed (s.echo n) .icmpv6 n ∧ Transmitted s (s.echo n) (54 + n) := by
  obtain ⟨h0,h1,h2,h3,h4,h5,h6,h7⟩ := s.prepareReply_spec (ip := s.memRead 38 16) (by simp)
  set p := s.prepareReply (s.memRead 38 16) with hp
  obtain ⟨b2,b3,b7⟩ := p.buildEcho_spec
  set b := p.buildEcho with hb
  have hbyte : ∀ a, (s.echo n).byte a = (b.fillCksum .icmpv6 n).byte a := by
    intro a; rw [State.echo, State.byte_setDisp, State.byte_tx]
  have hf : ∀ a, a ≠ 56 → a ≠ 57 → (s.echo n).byte a = b.byte a := by
    intro a g1 g2
    rw [hbyte, State.byte_fillCksum]
    exact (if_neg g1).trans (if_neg g2)
  have hres : (s.echo n).ckres = (b.cksum .icmpv6 n).ckres := by simp [State.echo, hb, hp]
  have m : ∀ a k, a + k ≤ 56 ∨ 58 ≤ a → (s.echo n).memRead a k = b.memRead a k := fun a k h =>
     State.memRead_congr fun i hi => hf _ (by omega) (by omega)
  refine ⟨?_, ?_, ?_, ?_, ?_, ?_, ?_⟩
  · refine OriginatedHeader.of_prepared h0 (by rw [h1]; simp) h2 h3 (by rw [h4]; simp) h5 h6 ?_ ?_ ?_
    · rw [State.be16_congr (t := s.echo n) (s := s) (a := 18) (by rw [hf _ (by omega) (by omega), b7 _ (by omega), h7 _ (by omega)]) (by rw [hf _ (by omega) (by omega), b7 _ (by omega), h7 _ (by omega)])]
      exact hpl
    · rw [hf _ (by omega) (by omega), b2]
    · intro a ha; rw [hf _ (by omega) (by omega), b7 _ (by omega)]
  · rw [m _ _ (by omega), b3]
  · rw [State.be16_congr (hbyte 56) (hbyte 57), hres]
    exact State.be16_fillCksum b .icmpv6 _
  · intro a ha; rw [hf _ (by omega) (by omega), b7 _ (by omega), h7 _ (by omega)]
  · have h := b.computed_fillCksum .icmpv6 (n := n) (by omega)
    have hr := State.rawSum_eq_of_byte hbyte .icmpv6 n
    unfold Computed at h ⊢
    rw [hr]
    simpa [State.echo, hb, hp] using h
  · rw [State.memRead_congr (t := b.fillCksum .icmpv6 n) fun i _ => hbyte _]
    simp [State.echo, hb, hp]
  · have : (s.echo n).txlen = BitVec.ofNat 16 (54 + n) := by simp [State.echo]
    rw [this, BitVec.toNat_ofNat, Nat.mod_eq_of_lt (by omega)]

end Sys2Proof.Machine
end

