-- ==== Sys2Proof/Laws/Poll.lean ====
section
/-! SUPPORT. What the early ends, the enable gate, the handlers and the parser can answer, each said once. -/

namespace Sys2Proof.Machine

/-! ## Gates -/

theorem State.whenEnabled_of_en {s : State} (h : s.en = true) (run : State → State) :
    s.whenEnabled run = run s := by rw [State.whenEnabled, if_pos h]

theorem State.whenEnabled_of_not {s : State} (h : s.en = false) (run : State → State) :
    s.whenEnabled run = s.setCmderr .disabled := by
  rw [State.whenEnabled, if_neg (by simp [h])]; rfl

/-- The precondition of R119 holds exactly when `checkable` finds an upper layer. -/
theorem State.checkable_eq_some {s : State} {u : UpperLayer} :
    s.checkable = some u ↔
      54 + s.plen ≤ s.bufSize ∧ s.nextHeader = u.nh ∧ u.minLen ≤ s.plen := by
  unfold State.checkable upperLayer
  by_cases h1 : 54 + s.plen ≤ s.bufSize
  · rw [if_pos h1]
    by_cases h2 : s.nextHeader = UpperLayer.icmpv6.nh
    · rw [if_pos h2]
      simp only
      cases u
      · simp [h1, h2]
      · have : UpperLayer.icmpv6.nh ≠ UpperLayer.udp.nh := by decide
        simp [h2, this]
    · rw [if_neg h2]
      by_cases h3 : s.nextHeader = UpperLayer.udp.nh
      · rw [if_pos h3]
        have : UpperLayer.udp.nh ≠ UpperLayer.icmpv6.nh := by decide
        cases u <;> simp [h1, h3, this]
      · rw [if_neg h3]
        cases u <;> simp [h2, h3]
  · rw [if_neg h1]; simp [h1]

/-! ## The reply builders, byte by byte -/

/-- A prepared reply leaves everything outside BUF[0..17], 21 and BUF[22..53]. -/
theorem State.byte_prepareReply_of_ge {s : State} {ip : List Byte} (hip : ip.length = 16) {a : Nat}
    (h : 54 ≤ a ∨ 18 ≤ a ∧ a < 21) : (s.prepareReply ip).byte a = s.byte a := by
  refine State.byte_memWrites_of_not ?_
  simp [hip]
  omega

theorem State.byte_buildNa_of_not {s : State} {a : Nat}
    (h : 86 ≤ a ∨ a < 18 ∨ 21 ≤ a ∧ a < 54 ∨ a = 56 ∨ a = 57 ∨ 62 ≤ a ∧ a < 78) :
    s.buildNa.byte a = s.byte a := by
  refine State.byte_memWrites_of_not ?_
  simp
  omega

theorem State.byte_buildEcho_of_not {s : State} {a : Nat} (h : a ≠ 20 ∧ a ≠ 54 ∧ a ≠ 55) :
    s.buildEcho.byte a = s.byte a := by
  refine State.byte_memWrites_of_not ?_
  simp
  omega

theorem State.byte_buildUdp_of_not {s : State} {len sp dp : Half} {a : Nat}
    (h : a < 18 ∨ 21 ≤ a ∧ a < 54 ∨ 60 ≤ a) : (s.buildUdp len sp dp).byte a = s.byte a := by
  refine State.byte_memWrites_of_not ?_
  simp
  omega

theorem State.byte_prepareSend_of_not {s : State} {a : Nat} (h : 54 ≤ a ∨ 18 ≤ a ∧ a < 21) :
    s.prepareSend.byte a = s.byte a := by
  refine State.byte_memWrites_of_not ?_
  simp
  omega

/-! ## The parser -/

/-- The dispositions that end a POLL with nothing held and nothing sent. -/
def Disp.quiet (c : Disp) : Prop :=
  c ≠ .repliedNa ∧ c ≠ .repliedEcho ∧ c ≠ .deliveredNa ∧ c ≠ .deliveredUdp

/-- A frame the parser accepted (R81 to R85), of length `len`, in the buffer of `l`. -/
structure Accepted (l : State) (len : Nat) : Prop where
  hdr : 54 ≤ len
  etype : l.etherType = 0x86DD
  version : l.ipVersion = 6
  fits : 54 + l.plen ≤ len

/-- Everything the parser can answer on a loaded frame: a quiet end before or after the verification, a
delivery, or a reply. -/
inductive ParseResult (l : State) (len : Nat) : State → Prop
  /-- R81 to R84, R88, R131, R151, R152: nothing computed. -/
  | early (c : Disp) (hc : c.quiet) : ParseResult l len (l.setDisp c)
  /-- R132, R134, R135, R138, R140, R153: computed, then dropped or ignored. -/
  | late (u : UpperLayer) (c : Disp) (hc : c.quiet) (ha : Accepted l len)
      (hn : l.nextHeader = u.nh) (hp : u.minLen ≤ l.plen) :
      ParseResult l len ((l.verify u l.plen).setDisp c)
  /-- R138. -/
  | na (ha : Accepted l len) (hn : l.nextHeader = 58) (ht : l.icmpType = 136) (hp : 24 ≤ l.plen)
      (hv : (l.verify .icmpv6 l.plen).status.ckok = true) :
      ParseResult l len (((l.verify .icmpv6 l.plen).setHold .na).setDisp .deliveredNa)
  /-- R154. -/
  | udp (ha : Accepted l len) (hn : l.nextHeader = 17) (hp : 8 ≤ l.plen)
      (hl : (l.be16 58).toNat = l.plen) (hv : (l.verify .udp l.plen).status.ckok = true) :
      ParseResult l len (((l.verify .udp l.plen).setHold .udp).setDisp .deliveredUdp)
  /-- R136. -/
  | ns (ha : Accepted l len) (hn : l.nextHeader = 58) (ht : l.icmpType = 135) (hp : 24 ≤ l.plen)
      (hv : (l.verify .icmpv6 l.plen).status.ckok = true) (htgt : l.ndTarget = l.lip.toList) :
      ParseResult l len (l.verify .icmpv6 l.plen).nsReply
  /-- R139. -/
  | echo (ha : Accepted l len) (hn : l.nextHeader = 58) (ht : l.icmpType = 128) (hp : 4 ≤ l.plen)
      (hv : (l.verify .icmpv6 l.plen).status.ckok = true) :
      ParseResult l len ((l.verify .icmpv6 l.plen).echo l.plen)

/-- The inversion lemma of the parser (R89): every answer is one of `ParseResult`. -/
theorem State.parse_result (l : State) (len : Nat) : ParseResult l len (l.parse len) := by
  unfold State.parse
  by_cases h1 : len < 54
  · rw [if_pos h1]; exact .early _ (by simp [Disp.quiet])
  rw [if_neg h1]
  by_cases h2 : l.etherType = 0x86DD
  swap
  · rw [if_pos h2]; exact .early _ (by simp [Disp.quiet])
  rw [if_neg (not_not.mpr h2)]
  by_cases h3 : l.ipVersion = 6
  swap
  · rw [if_pos h3]; exact .early _ (by simp [Disp.quiet])
  rw [if_neg (not_not.mpr h3)]
  unfold State.accepted
  by_cases h4 : len < 54 + l.plen
  · rw [if_pos h4]; exact .early _ (by simp [Disp.quiet])
  rw [if_neg h4]
  have ha : Accepted l len := ⟨by omega, h2, h3, by omega⟩
  unfold State.dispatch
  by_cases h5 : l.nextHeader = 58
  · rw [if_pos h5]
    unfold State.icmp6 State.icmpChecked
    by_cases h6 : l.plen < 4
    · rw [if_pos h6]; exact .early _ (by simp [Disp.quiet])
    rw [if_neg h6]
    simp only
    by_cases h7 : (l.verify .icmpv6 l.plen).status.ckok = false
    · rw [if_pos h7]
      exact .late .icmpv6 _ (by simp [Disp.quiet]) ha h5 (by simp [UpperLayer.minLen]; omega)
    rw [if_neg h7]
    have hv : (l.verify .icmpv6 l.plen).status.ckok = true := by simpa using h7
    have late : ∀ c : Disp, c.quiet → ParseResult l len ((l.verify .icmpv6 l.plen).setDisp c) :=
      fun c hc => .late .icmpv6 c hc ha h5 (by simp [UpperLayer.minLen]; omega)
    unfold State.icmpDispatch
    have ht : (l.verify .icmpv6 l.plen).icmpType = l.icmpType := rfl
    rw [ht]
    split
    · next t =>
      unfold State.ns
      split
      · exact late _ (by simp [Disp.quiet])
      · split
        · exact late _ (by simp [Disp.quiet])
        · next h8 h9 => exact .ns ha h5 t (by omega) hv (not_not.mp h9)
    · split
      · next t =>
        unfold State.na
        split
        · exact late _ (by simp [Disp.quiet])
        · next h8 => exact .na ha h5 t (by omega) hv
      · split
        · next t => exact .echo ha h5 t (by omega) hv
        · exact late _ (by simp [Disp.quiet])
  rw [if_neg h5]
  by_cases h6 : l.nextHeader = 17
  swap
  · rw [if_neg h6]; exact .early _ (by simp [Disp.quiet])
  rw [if_pos h6]
  unfold State.udp
  by_cases h7 : l.plen < 8
  · rw [if_pos h7]; exact .early _ (by simp [Disp.quiet])
  rw [if_neg h7]
  by_cases h8 : (l.be16 58).toNat = l.plen
  swap
  · rw [if_pos h8]; exact .early _ (by simp [Disp.quiet])
  rw [if_neg (not_not.mpr h8)]
  split
  · exact .late .udp _ (by simp [Disp.quiet]) ha h6 (by simp [UpperLayer.minLen]; omega)
  · next h9 => exact .udp ha h6 (by omega) h8 (by simpa using h9)

/-- Everything an enabled POLL can do (R80). -/
theorem State.poll_cases (s : State) :
    (s.nextFrame = none ∧ s.poll = (s.dropAnswer.setCmderr .ok).setDisp .noframe) ∨
    (∃ f, s.nextFrame = some f ∧ s.bufSize < f.length ∧
      s.poll = (s.dropAnswer.setCmderr .ok).setDisp .dropOversize) ∨
    (∃ f, s.nextFrame = some f ∧ 0 < f.length ∧ f.length ≤ s.bufSize ∧
      ParseResult ((s.dropAnswer.setCmderr .ok).load f) f.length s.poll) := by
  unfold State.poll
  split
  · next h => exact .inl ⟨h, rfl⟩
  · next f h =>
    by_cases hl : s.bufSize < f.length
    · refine .inr (.inl ⟨f, h, hl, ?_⟩)
      exact if_pos hl
    · refine .inr (.inr ⟨f, h, ?_, by omega, ?_⟩)
      · unfold State.nextFrame at h
        split at h
        · cases h; simp
        · cases h
      · have : s.dropAnswer.receive f State.parse =
            ((s.dropAnswer.setCmderr .ok).load f).parse f.length := if_neg hl
        rw [this]
        exact State.parse_result _ _

end Sys2Proof.Machine
end

