-- ==== Sys2Proof/Laws/Alike.lean ====
section
/-! SUPPORT. Two states that differ in part of the buffer alone, and what every operation of POLL keeps of
that: each operation is a congruence of `AlikeOn`, said once. -/

namespace Sys2Proof.Machine

/-- `t` is `s` but for the buffer, and the two buffers agree at the offsets of `P`. -/
structure AlikeOn (P : Nat → Prop) (s t : State) : Prop where
  rest : ∃ m, t = { s with buf := m }
  byte : ∀ a, P a → t.byte a = s.byte a

/-- The offsets that R72 and R87 leave once the Ethernet destination, the traffic class, the flow label
and the hop limit are set aside. -/
def examined (a : Nat) : Prop := 6 ≤ a ∧ a ∉ [14, 15, 16, 17, 21]

variable {P Q : Nat → Prop} {s t : State}

theorem AlikeOn.mono (h : AlikeOn P s t) (hq : ∀ a, Q a → P a) : AlikeOn Q s t :=
  ⟨h.rest, fun a ha => h.byte a (hq a ha)⟩

theorem AlikeOn.memRead (h : AlikeOn P s t) {a n : Nat} (hp : ∀ i, i < n → P (a + i)) :
    t.memRead a n = s.memRead a n := State.memRead_congr fun i hi => h.byte _ (hp i hi)

theorem AlikeOn.be16 (h : AlikeOn P s t) {a : Nat} (h0 : P a) (h1 : P (a + 1)) :
    t.be16 a = s.be16 a := State.be16_congr (h.byte _ h0) (h.byte _ h1)

/-- The same byte string written to both: they agree there as well. -/
theorem AlikeOn.memWrite (h : AlikeOn P s t) (a : Nat) (v : List Byte) :
    AlikeOn (fun x => P x ∨ a ≤ x ∧ x < a + v.length) (s.memWrite a v) (t.memWrite a v) := by
  refine ⟨?_, fun x hx => ?_⟩
  · obtain ⟨m, rfl⟩ := h.rest
    exact ⟨m.writeList a v, rfl⟩
  · rw [State.byte_memWrite, State.byte_memWrite]
    split
    · rfl
    · next hn => exact h.byte x (hx.resolve_right hn)

theorem AlikeOn.memWrites (h : AlikeOn P s t) (ws : List (Nat × List Byte)) :
    AlikeOn (fun x => P x ∨ ∃ w ∈ ws, w.1 ≤ x ∧ x < w.1 + w.2.length) (s.memWrites ws)
      (t.memWrites ws) := by
  induction ws generalizing P s t with
  | nil => exact h.mono fun a ha => by simpa using ha
  | cons w ws ih =>
    rw [State.memWrites_cons, State.memWrites_cons]
    refine (ih (h.memWrite w.1 w.2)).mono fun a ha => ?_
    simp only [List.mem_cons, exists_eq_or_imp] at ha
    tauto

/-! ## One-field updates and the network interface -/

theorem AlikeOn.setDisp (h : AlikeOn P s t) (c : Disp) : AlikeOn P (s.setDisp c) (t.setDisp c) := by
  refine ⟨?_, h.byte⟩
  obtain ⟨m, rfl⟩ := h.rest
  exact ⟨m, rfl⟩

theorem AlikeOn.setHold (h : AlikeOn P s t) (c : Hold) : AlikeOn P (s.setHold c) (t.setHold c) := by
  refine ⟨?_, h.byte⟩
  obtain ⟨m, rfl⟩ := h.rest
  exact ⟨m, rfl⟩

/-- What is transmitted is the same when all the bytes are. -/
theorem AlikeOn.tx (h : AlikeOn P s t) (hp : ∀ a, P a) (n : Nat) : AlikeOn P (s.tx n) (t.tx n) := by
  have e := h.memRead (a := 0) (n := n) fun i _ => hp _
  refine ⟨?_, h.byte⟩
  obtain ⟨m, rfl⟩ := h.rest
  refine ⟨m, ?_⟩
  unfold State.tx
  rw [e]

/-! ## The checksum unit -/

theorem AlikeOn.rawSum (h : AlikeOn P s t) (hp : ∀ a, 22 ≤ a → P a) (u : UpperLayer) (n : Nat) :
    t.rawSum u n = s.rawSum u n :=
  State.rawSum_congr (fun a ha _ => h.byte a (hp a ha)) fun a ha _ _ _ => h.byte a (hp a (by omega))

theorem AlikeOn.cksum (h : AlikeOn P s t) (hp : ∀ a, 22 ≤ a → P a) (u : UpperLayer) (n : Nat) :
    AlikeOn P (s.cksum u n) (t.cksum u n) := by
  have e := h.rawSum hp u n
  refine ⟨?_, h.byte⟩
  obtain ⟨m, rfl⟩ := h.rest
  refine ⟨m, ?_⟩
  unfold State.cksum
  rw [e]

theorem AlikeOn.ckres (h : AlikeOn P s t) : t.ckres = s.ckres := by
  obtain ⟨m, rfl⟩ := h.rest
  rfl

theorem AlikeOn.status (h : AlikeOn P s t) : t.status = s.status := by
  obtain ⟨m, rfl⟩ := h.rest
  rfl

theorem AlikeOn.fillCksum (h : AlikeOn P s t) (hp : ∀ a, 22 ≤ a → P a) (u : UpperLayer) (n : Nat) :
    AlikeOn P (s.fillCksum u n) (t.fillCksum u n) := by
  have h' := h.cksum hp u n
  unfold State.fillCksum State.setBe16
  rw [h'.ckres]
  exact (h'.memWrite _ _).mono fun a ha => .inl ha

theorem AlikeOn.verify (h : AlikeOn P s t) (hp : ∀ a, 22 ≤ a → P a) (u : UpperLayer) (n : Nat) :
    AlikeOn P (s.verify u n) (t.verify u n) := by
  have hu : 54 ≤ u.ckoff := by cases u <;> decide
  have h' := h.cksum hp u n
  have e := h.be16 (hp u.ckoff (by omega)) (hp (u.ckoff + 1) (by omega))
  refine ⟨?_, h.byte⟩
  unfold State.verify
  rw [h'.ckres, e]
  obtain ⟨m, hm⟩ := h'.rest
  exact ⟨m, by rw [hm]; rfl⟩

/-! ## The reply builders: afterwards the whole buffers agree, since a reply writes every byte that R72
leaves unexamined -/

theorem AlikeOn.prepareReply (h : AlikeOn examined s t) {ip : List Byte} :
    AlikeOn (fun _ => True) (s.prepareReply ip) (t.prepareReply ip) := by
  have e1 : t.memRead 6 6 = s.memRead 6 6 := h.memRead fun i hi => by simp [examined]; omega
  have e2 : t.memRead 22 16 = s.memRead 22 16 := h.memRead fun i hi => by simp [examined]; omega
  have e3 : t.lmac = s.lmac ∧ t.hoplim = s.hoplim := by
    obtain ⟨m, rfl⟩ := h.rest
    exact ⟨rfl, rfl⟩
  unfold State.prepareReply
  rw [e1, e2, e3.1, e3.2]
  refine (h.memWrites _).mono fun a _ => ?_
  simp [examined]
  omega

theorem AlikeOn.nsReply (h : AlikeOn examined s t) : AlikeOn (fun _ => True) s.nsReply t.nsReply := by
  have e : t.lip = s.lip ∧ t.lmac = s.lmac ∧ t.params = s.params := by
    obtain ⟨m, rfl⟩ := h.rest
    exact ⟨rfl, rfl, rfl⟩
  have hb : AlikeOn (fun _ => True) (s.prepareReply s.lip.toList).buildNa
      (t.prepareReply t.lip.toList).buildNa := by
    rw [e.1]
    have e1 : (t.prepareReply s.lip.toList).lmac = (s.prepareReply s.lip.toList).lmac := e.2.1
    have e2 : (t.prepareReply s.lip.toList).params = (s.prepareReply s.lip.toList).params := e.2.2
    unfold State.buildNa
    rw [e1, e2]
    exact (h.prepareReply.memWrites _).mono fun a ha => .inl ha
  exact ((hb.fillCksum (fun _ _ => trivial) _ _).tx (fun _ => trivial) _).setDisp _

theorem AlikeOn.echo (h : AlikeOn examined s t) (n : Nat) :
    AlikeOn (fun _ => True) (s.echo n) (t.echo n) := by
  have e : t.memRead 38 16 = s.memRead 38 16 := h.memRead fun i hi => by simp [examined]; omega
  have hb : AlikeOn (fun _ => True) (s.prepareReply (s.memRead 38 16)).buildEcho
      (t.prepareReply (t.memRead 38 16)).buildEcho := by
    rw [e]
    exact (h.prepareReply.memWrites _).mono fun a ha => .inl ha
  exact ((hb.fillCksum (fun _ _ => trivial) _ _).tx (fun _ => trivial) _).setDisp _

/-! ## The handlers and the parser -/

theorem AlikeOn.ns (h : AlikeOn examined s t) (n : Nat) : AlikeOn examined (s.ns n) (t.ns n) := by
  have e1 : t.ndTarget = s.ndTarget := h.memRead fun i hi => by simp [examined]; omega
  have e2 : t.lip = s.lip := by
    obtain ⟨m, rfl⟩ := h.rest
    rfl
  unfold State.ns
  rw [e1, e2]
  split
  · exact h.setDisp _
  · split
    · exact h.setDisp _
    · exact h.nsReply.mono fun _ _ => trivial

theorem AlikeOn.na (h : AlikeOn examined s t) (n : Nat) : AlikeOn examined (s.na n) (t.na n) := by
  unfold State.na
  split
  · exact h.setDisp _
  · exact (h.setHold _).setDisp _

theorem AlikeOn.icmpDispatch (h : AlikeOn examined s t) (n : Nat) :
    AlikeOn examined (s.icmpDispatch n) (t.icmpDispatch n) := by
  have e : t.icmpType = s.icmpType := h.byte 54 (by simp [examined])
  unfold State.icmpDispatch
  rw [e]
  split
  · exact h.ns n
  · split
    · exact h.na n
    · split
      · exact (h.echo n).mono fun _ _ => trivial
      · exact h.setDisp _

theorem AlikeOn.icmp6 (h : AlikeOn examined s t) (n : Nat) :
    AlikeOn examined (s.icmp6 n) (t.icmp6 n) := by
  have hv := h.verify (fun a ha => by simp [examined]; omega) .icmpv6 n
  unfold State.icmp6 State.icmpChecked
  rw [hv.status]
  split
  · exact h.setDisp _
  · split
    · exact hv.setDisp _
    · exact hv.icmpDispatch n

theorem AlikeOn.udp (h : AlikeOn examined s t) (n : Nat) : AlikeOn examined (s.udp n) (t.udp n) := by
  have hv := h.verify (fun a ha => by simp [examined]; omega) .udp n
  have e : t.be16 58 = s.be16 58 := h.be16 (by simp [examined]) (by simp [examined])
  unfold State.udp
  rw [hv.status, e]
  repeat' split
  all_goals first
    | exact h.setDisp _
    | exact hv.setDisp _
    | exact (hv.setHold _).setDisp _

/-- The parser on two such states with the same version: the answers are such again. -/
theorem AlikeOn.parse (h : AlikeOn examined s t) (hver : t.ipVersion = s.ipVersion) (len : Nat) :
    AlikeOn examined (s.parse len) (t.parse len) := by
  have e1 : t.etherType = s.etherType := h.be16 (by simp [examined]) (by simp [examined])
  have e2 : t.plen = s.plen :=
    congrArg BitVec.toNat (h.be16 (a := 18) (by simp [examined]) (by simp [examined]))
  have e3 : t.nextHeader = s.nextHeader := h.byte 20 (by simp [examined])
  unfold State.parse State.accepted State.dispatch
  rw [hver, e1, e2, e3]
  repeat' split
  all_goals first
    | exact h.setDisp _
    | exact h.icmp6 _
    | exact h.udp _

/-- Two frames of one length that agree at the examined offsets, loaded. -/
theorem AlikeOn.load {f g : Frame} (s : State) (hl : f.length = g.length)
    (hf : ∀ i, examined i → f[i]? = g[i]?) : AlikeOn examined (s.load f) (s.load g) := by
  refine ⟨⟨(s.load g).buf, ?_⟩, fun a ha => ?_⟩
  · unfold State.load State.memWrite State.setHold
    rw [hl]
  · have := hf a ha
    rw [State.byte_load, State.byte_load]
    by_cases h : a < f.length
    · rw [dif_pos h, dif_pos (hl ▸ h)]
      rw [List.getElem?_eq_getElem h, List.getElem?_eq_getElem (hl ▸ h)] at this
      exact (Option.some.inj this).symm
    · rw [dif_neg h, dif_neg (hl ▸ h)]

end Sys2Proof.Machine
end

