-- ==== Sys2Proof/Laws/Decode.lean ====
section
/-! SUPPORT. The fields of a command word as numbers, and what the frame decoder finds. -/

namespace Sys2Proof

theorem append_toNat {a b : Nat} (x : BitVec a) (y : BitVec b) :
    (x ++ y).toNat = x.toNat * 2 ^ b + y.toNat := by
  rw [BitVec.toNat_append, ← Nat.shiftLeft_add_eq_or_of_lt y.isLt, Nat.shiftLeft_eq]

theorem cmdOp_toNat (w : Word) : (cmdOp w).toNat = w.toNat % 256 := by
  simp [cmdOp, BitVec.extractLsb'_toNat]

theorem cmdLen_toNat (w : Word) : (cmdLen w).toNat = w.toNat / 256 % 65536 := by
  simp [cmdLen, BitVec.extractLsb'_toNat, Nat.shiftRight_eq_div_pow]

theorem cmdZero_toNat (w : Word) : (cmdZero w).toNat = w.toNat / 2 ^ 24 := by
  have h := w.isLt
  simp only [cmdZero, BitVec.extractLsb'_toNat, Nat.shiftRight_eq_div_pow]
  omega

theorem cmdWord_toNat (op : Byte) (len : Half) :
    (cmdWord op len).toNat = len.toNat * 256 + op.toNat := by
  have h : (cmdWord op len).toNat = (0#8 ++ len ++ op : BitVec (8 + 16 + 8)).toNat := rfl
  rw [h, append_toNat, append_toNat]
  simp

@[simp] theorem cmdOp_cmdWord (op : Byte) (len : Half) : cmdOp (cmdWord op len) = op := by
  apply BitVec.eq_of_toNat_eq
  have := op.isLt
  rw [cmdOp_toNat, cmdWord_toNat]
  omega

@[simp] theorem cmdLen_cmdWord (op : Byte) (len : Half) : cmdLen (cmdWord op len) = len := by
  apply BitVec.eq_of_toNat_eq
  have := op.isLt
  have := len.isLt
  rw [cmdLen_toNat, cmdWord_toNat]
  omega

@[simp] theorem cmdZero_cmdWord (op : Byte) (len : Half) : cmdZero (cmdWord op len) = 0 := by
  apply BitVec.eq_of_toNat_eq
  have := op.isLt
  have := len.isLt
  rw [cmdZero_toNat, cmdWord_toNat]
  show _ = 0
  omega

/-- A word with ZERO = 0 is the word of its two fields. -/
theorem cmdWord_of_zero {w : Word} (h : cmdZero w = 0) : cmdWord (cmdOp w) (cmdLen w) = w := by
  apply BitVec.eq_of_toNat_eq
  have h0 : w.toNat / 2 ^ 24 = 0 := by rw [← cmdZero_toNat, h]; rfl
  rw [cmdWord_toNat, cmdOp_toNat, cmdLen_toNat]
  omega

/-- The reserved-word test of R59 in terms of the fields. -/
theorem reservedWord_iff (w : Word) :
    reservedWord w = true ↔
      7 ≤ (cmdOp w).toNat ∨ cmdZero w ≠ 0 ∨
        ((cmdOp w = 0 ∨ cmdOp w = 1 ∨ cmdOp w = 4 ∨ cmdOp w = 5) ∧ cmdLen w ≠ 0) := by
  simp [reservedWord, cmdOp, cmdZero, cmdLen, or_assoc]

/-- A byte test against a full mask asks for the byte itself. -/
theorem passes_ff (i : Nat) (v : Byte) (f : Frame) :
    (ByteTest.mk i 0xFF v).passes f = true ↔ frameByte f i = v := by
  have : ∀ b : Byte, b &&& 0xFF = b := by decide
  simp only [ByteTest.passes, this, beq_iff_eq]

/-- The version test of the table looks at the high four bits of byte 14. -/
theorem passes_version (f : Frame) :
    (ByteTest.mk 14 0xF0 0x60).passes f = true ↔ (frameByte f 14).extractLsb' 4 4 = 6 := by
  have : ∀ b : Byte, b &&& 0xF0 = 0x60 ↔ b.extractLsb' 4 4 = 6 := by decide
  simp only [ByteTest.passes, beq_iff_eq, this]

/-- The inversion lemma of the command decoder: with ZERO = 0 and the LEN the opcode asks for a word is its
command, and every other word is reserved. -/
theorem decodeCmd_cases (w : Word) :
    (cmdZero w = 0 ∧
      ((cmdOp w = 0 ∧ cmdLen w = 0 ∧ decodeCmd w = .nop) ∨
       (cmdOp w = 1 ∧ cmdLen w = 0 ∧ decodeCmd w = .poll) ∨
       (cmdOp w = 2 ∧ decodeCmd w = .udpsend (cmdLen w)) ∨
       (cmdOp w = 3 ∧ decodeCmd w = .udpreply (cmdLen w)) ∨
       (cmdOp w = 4 ∧ cmdLen w = 0 ∧ decodeCmd w = .ckfill) ∨
       (cmdOp w = 5 ∧ cmdLen w = 0 ∧ decodeCmd w = .ckvfy) ∨
       (cmdOp w = 6 ∧ decodeCmd w = .xmit (cmdLen w)))) ∨
    (reservedWord w = true ∧ decodeCmd w = .reservedCmd w) := by
  by_cases hz : cmdZero w = 0#8
  swap
  · exact .inr ⟨(reservedWord_iff w).2 (.inr (.inl hz)), by simp [decodeCmd, hz]⟩
  have hd : decodeCmd w = decodeOp w := by simp [decodeCmd, hz]
  rw [hd]
  by_cases h7 : 7 ≤ (cmdOp w).toNat
  · refine .inr ⟨(reservedWord_iff w).2 (.inl h7), ?_⟩
    unfold decodeOp
    simp only
    split <;> first | omega | rfl
  have hop : (cmdOp w).toNat = 0 ∨ (cmdOp w).toNat = 1 ∨ (cmdOp w).toNat = 2 ∨ (cmdOp w).toNat = 3 ∨
      (cmdOp w).toNat = 4 ∨ (cmdOp w).toNat = 5 ∨ (cmdOp w).toNat = 6 := by omega
  have e (k : Nat) (hk : k < 256) (h : (cmdOp w).toNat = k) : cmdOp w = BitVec.ofNat 8 k :=
    BitVec.eq_of_toNat_eq (by rw [h, BitVec.toNat_ofNat, Nat.mod_eq_of_lt hk])
  by_cases hl : cmdLen w = 0#16
  · refine .inl ⟨hz, ?_⟩
    rcases hop with h | h | h | h | h | h | h <;> simp [e _ (by omega) h, hl, decodeOp]
  · rcases hop with h | h | h | h | h | h | h <;>
      simp [e _ (by omega) h, hl, decodeOp, hz, reservedWord_iff]

end Sys2Proof
end

