-- ==== Sys2Proof/Laws/Receive.lean ====
section
/-! SUPPORT. Receiving a frame: what the shared operations of every frame class answer (R80, R84, R131,
R132), each said once. -/

namespace Sys2Proof.Machine

/-- A frame that fits the buffer is shorter than 2^16. -/
theorem State.length_lt_of_fits {s : State} {f : Frame} (h : f.length ≤ s.bufSize) :
    f.length < 65536 := by
  have h1 := s.params.bufSize_le
  have h2 : s.bufSize = s.params.bufSize := rfl
  omega

/-- PLEN is a 16-bit number. -/
theorem State.plen_lt (s : State) : s.plen < 65536 := (s.be16 18).isLt

/-- `s` after loading `f`, with the given STATUS, CKACC and CKRES: the shape of every end of a POLL that
transmits nothing. -/
def State.received (s : State) (f : Frame) (st : Status) (acc : Word) (res : Half) : State :=
  { s.load f with status := st, ckacc := acc, ckres := res }

/-- The same with CKACC and CKRES of the frame's own segment. -/
abbrev State.receivedComputed (s : State) (f : Frame) (u : UpperLayer) (st : Status) : State :=
  s.received f st (BitVec.ofNat 32 ((s.load f).rawSum u (s.load f).plen))
    (BitVec.ofNat 16 (ckfinal ((s.load f).rawSum u (s.load f).plen)))

theorem State.receivedOnly {s : State} {f : Frame} (hl : f.length ≤ s.bufSize) {st : Status}
    (h : st.cmderr = .ok) (acc : Word) (res : Half) :
    ReceivedOnly s (s.received f st acc res) f := by
  refine ⟨fun a => s.byte_load f a, ?_, h, rfl, rfl, rfl,
    ⟨rfl, rfl, rfl, rfl, rfl, rfl, rfl, rfl, rfl, rfl, rfl, rfl⟩⟩
  show (BitVec.ofNat 16 f.length).toNat = _
  rw [BitVec.toNat_ofNat, Nat.mod_eq_of_lt (State.length_lt_of_fits hl)]

theorem State.computed_receivedComputed (s : State) (f : Frame) (u : UpperLayer) (st : Status) :
    Computed (s.receivedComputed f u st) u (s.load f).plen := by
  have h : (s.receivedComputed f u st).rawSum u (s.load f).plen = (s.load f).rawSum u (s.load f).plen :=
    State.rawSum_eq_of_byte (fun a => rfl) u _
  have hp := (s.load f).plen_lt
  have h1 := (s.load f).rawSum_lt u (n := (s.load f).plen) (by omega)
  have h2 := (ckfinal_spec ((s.load f).rawSum u (s.load f).plen)).1
  unfold Computed
  rw [h]
  refine ⟨?_, ?_⟩
  · show (BitVec.ofNat 32 _).toNat = _
    rw [BitVec.toNat_ofNat, Nat.mod_eq_of_lt h1]
  · show (BitVec.ofNat 16 _).toNat = _
    rw [BitVec.toNat_ofNat, Nat.mod_eq_of_lt (by omega)]

/-- A frame that fits is loaded and handled (R80). -/
theorem State.receive_of_fits {s : State} {f : Frame} (h : f.length ≤ s.bufSize)
    (handle : State → Nat → State) :
    s.receive f handle = handle ((s.setCmderr .ok).load f) f.length :=
  if_neg (show ¬ s.bufSize < f.length by omega)

/-- An oversize frame is lost (R80). -/
theorem State.receive_of_oversize {s : State} {f : Frame} (h : s.bufSize < f.length)
    (handle : State → Nat → State) :
    s.receive f handle = (s.setCmderr .ok).setDisp .dropOversize := if_pos h

/-- An enabled POLL takes the frame NI answers with and parses it (R80). -/
theorem State.exec_poll_of_frame {s : State} {f : Frame} {rest : List (Option Frame)}
    (en : s.en = true) (hr : s.rx = some f :: rest) (hf : f ≠ []) :
    exec .poll s = .next (({ s with rx := rest } : State).receive f State.parse) := by
  simp only [exec, execPoll, State.whenEnabled_of_en en, State.poll, State.nextFrame, hr]
  cases f with
  | nil => exact absurd rfl hf
  | cons b f => simp only [State.dropAnswer, hr, List.tail_cons]

/-! ## The length check (R84) and the ICMPv6 entry (R131, R132) -/

theorem State.accepted_of_le {l : State} {n : Nat} {k : State → Nat → State}
    (h : 54 + l.plen ≤ n) : l.accepted n k = k l l.plen := if_neg (by omega)

theorem State.accepted_of_lt {l : State} {n : Nat} {k : State → Nat → State}
    (h : n < 54 + l.plen) : l.accepted n k = l.drop .dropLength := if_pos h

theorem State.icmpChecked_of_short {l : State} {n : Nat} {k : State → State} (h : n < 4) :
    l.icmpChecked n k = l.drop .dropUlShort := if_pos h

theorem State.icmpChecked_of_mismatch {l : State} {n : Nat} {k : State → State} (h : 4 ≤ n)
    (h2 : (l.verify .icmpv6 n).status.ckok = false) :
    l.icmpChecked n k = (l.verify .icmpv6 n).drop .dropCksum := by
  unfold State.icmpChecked
  rw [if_neg (by omega)]
  rw [if_pos h2]

theorem State.icmpChecked_of_match {l : State} {n : Nat} {k : State → State} (h : 4 ≤ n)
    (h2 : (l.verify .icmpv6 n).status.ckok = true) :
    l.icmpChecked n k = k (l.verify .icmpv6 n) := by
  unfold State.icmpChecked
  rw [if_neg (by omega)]
  rw [if_neg (by simp [h2])]

/-- The field differs from the recomputed checksum: no match (R117). -/
theorem State.ckok_verify_of_ne {l : State} {u : UpperLayer} {n : Nat}
    (h : (l.be16 u.ckoff).toNat ≠ ckfinal (l.rawSum u n)) : (l.verify u n).status.ckok = false := by
  rw [← Bool.not_eq_true, State.verify_ckok]
  intro e
  apply h
  rw [e, State.cksum_ckres_toNat]

/-- The field is the recomputed checksum: a match (R117). -/
theorem State.ckok_verify_of_eq {l : State} {u : UpperLayer} {n : Nat}
    (h : (l.be16 u.ckoff).toNat = ckfinal (l.rawSum u n)) : (l.verify u n).status.ckok = true := by
  rw [State.verify_ckok]
  apply BitVec.eq_of_toNat_eq
  rw [h, State.cksum_ckres_toNat]

/-- A loaded frame after its verification. -/
theorem State.verify_load (s : State) (f : Frame) (u : UpperLayer) :
    ((s.setCmderr .ok).load f).verify u (s.load f).plen =
      s.receivedComputed f u
        ⟨s.status.disp, .none, ((s.load f).verify u (s.load f).plen).status.ckok, .ok⟩ := rfl

/-- A loaded ICMPv6 message that verifies goes on to its handler. -/
theorem State.icmpChecked_load {s : State} {f : Frame} (h : 4 ≤ (s.load f).plen)
    (hc : ((s.load f).be16 56).toNat = ckfinal ((s.load f).rawSum .icmpv6 (s.load f).plen))
    (k : State → State) :
    ((s.setCmderr .ok).load f).icmpChecked (s.load f).plen k =
      k (s.receivedComputed f .icmpv6 ⟨s.status.disp, .none, true, .ok⟩) := by
  have hv := State.ckok_verify_of_eq (u := .icmpv6) hc
  have e := State.verify_load s f .icmpv6
  rw [hv] at e
  rw [State.icmpChecked_of_match h (by rw [e]; rfl), e]

end Sys2Proof.Machine
end

