-- ==== Sys2Proof/Laws/Command.lean ====
section
/-! SUPPORT. Everything a command step can do, said once, and what every end of the parser keeps. -/

namespace Sys2Proof.Machine

/-! ## What every end of the parser keeps -/

theorem ParseResult.config {l r : State} {n : Nat} (h : ParseResult l n r) : SameConfig l r := by
  cases h <;> constructor <;> simp

theorem ParseResult.rx {l r : State} {n : Nat} (h : ParseResult l n r) : r.rx = l.rx := by
  cases h <;> simp

theorem ParseResult.rxlen {l r : State} {n : Nat} (h : ParseResult l n r) : r.rxlen = l.rxlen := by
  cases h <;> simp

theorem ParseResult.cmderr {l r : State} {n : Nat} (h : ParseResult l n r) :
    r.status.cmderr = l.status.cmderr := by
  cases h <;> simp

/-! ## The inversion lemma of a command step -/

/-- Everything a command step can answer: a CMDERR code alone, or the effect of a command that ran. -/
inductive CommandResult (s : State) : State → Prop
  /-- NOP, and every refusal (R167, R186). -/
  | code (e : CmdErr) : CommandResult s (s.setCmderr e)
  /-- CKFILL (R120). -/
  | fill (u : UpperLayer) (h : s.checkable = some u) :
      CommandResult s ((s.fillCksum u s.plen).setCmderr .ok)
  /-- CKVFY (R121). -/
  | vfy (u : UpperLayer) (h : s.checkable = some u) :
      CommandResult s ((s.verify u s.plen).setCmderr .ok)
  /-- UDPSEND (R156). -/
  | send (len : Half) (h : len.toNat ≤ s.bufSize - 62) :
      CommandResult s ((s.prepareSend.buildUdp len s.lport s.rport).udpFinish len)
  /-- UDPREPLY (R158). -/
  | reply (len : Half) (h : len.toNat ≤ s.bufSize - 62) (hold : s.status.hold = .udp) :
      CommandResult s
        (((s.prepareReply s.lip.toList).buildUdp len s.lport (s.be16 54)).udpFinish len)
  /-- XMIT (R170). -/
  | xmit (len : Half) (h : 14 ≤ len.toNat) (h' : len.toNat ≤ s.bufSize) :
      CommandResult s (((s.tx len.toNat).setHold .none).setCmderr .ok)
  /-- POLL without a frame (R80). -/
  | noframe : CommandResult s ((s.dropAnswer.setCmderr .ok).setDisp .noframe)
  /-- POLL with an oversize frame (R80). -/
  | oversize : CommandResult s ((s.dropAnswer.setCmderr .ok).setDisp .dropOversize)
  /-- POLL with a frame that fits (R80, R89). -/
  | received (f : Frame) (r : State) (h0 : 0 < f.length) (h : f.length ≤ s.bufSize)
      (hr : ParseResult ((s.dropAnswer.setCmderr .ok).load f) f.length r) : CommandResult s r

/-- A gated command (R166) answers what it runs, or DISABLED. -/
theorem CommandResult.of_gate {s : State} {run : State → State} (h : CommandResult s (run s)) :
    CommandResult s (s.whenEnabled run) := by
  by_cases en : s.en = true
  · rwa [State.whenEnabled_of_en en]
  · rw [State.whenEnabled_of_not (by simpa using en)]
    exact .code _

/-- A checksum command answers what it runs on the segment, or BADFRAME. -/
theorem CommandResult.of_segment {s : State} {run : UpperLayer → State}
    (h : ∀ u, s.checkable = some u → CommandResult s ((run u).setCmderr .ok)) :
    CommandResult s (s.onSegment run) := by
  unfold State.onSegment
  split
  · next u hu => exact h u hu
  · exact .code _

theorem State.poll_result (s : State) : CommandResult s s.poll := by
  rcases s.poll_cases with ⟨-, h⟩ | ⟨f, -, -, h⟩ | ⟨f, -, h0, hl, h⟩
  · rw [h]; exact .noframe
  · rw [h]; exact .oversize
  · exact .received f _ h0 hl h

theorem State.udpsend_result (s : State) (len : Half) : CommandResult s (s.udpsend len) := by
  unfold State.udpsend
  split
  · exact .code _
  · exact .send _ (by omega)

theorem State.udpreply_result (s : State) (len : Half) : CommandResult s (s.udpreply len) := by
  unfold State.udpreply
  split
  · exact .code _
  · next hold =>
    split
    · exact .code _
    · exact .reply _ (by omega) (not_not.mp hold)

theorem State.xmit_result (s : State) (len : Half) : CommandResult s (s.xmit len) := by
  unfold State.xmit
  split
  · exact .code _
  · exact .xmit _ (by omega) (by omega)

/-- The inversion lemma: whatever word H writes to CMD, the step's answer is one of `CommandResult`. -/
theorem command_result {w : Word} {s t : State} (h : exec (decodeCmd w) s = .next t) :
    CommandResult s t := by
  rcases decodeCmd_cases w with ⟨-, h'⟩ | ⟨-, e⟩
  · rcases h' with ⟨-, -, e⟩ | ⟨-, -, e⟩ | ⟨-, e⟩ | ⟨-, e⟩ | ⟨-, -, e⟩ | ⟨-, -, e⟩ | ⟨-, e⟩ <;>
      rw [e] at h <;>
      simp only [exec, execNop, execPoll, execUdpsend, execUdpreply, execCkfill, execCkvfy, execXmit,
        Host.Outcome.next.injEq] at h <;>
      subst h
    · exact .code _
    · exact .of_gate s.poll_result
    · exact .of_gate (s.udpsend_result _)
    · exact .of_gate (s.udpreply_result _)
    · exact .of_gate (.of_segment fun u hu => .fill u hu)
    · exact .of_gate (.of_segment fun u hu => .vfy u hu)
    · exact .of_gate (s.xmit_result _)
  · rw [e] at h
    cases h
    exact .code _

/-! ## The buffer's canonical form and bounds -/

/-- The buffer's cells are in canonical form and inside BUF[0 .. BUF_SIZE-1]. -/
def State.BufOk (s : State) : Prop := s.buf.wf ∧ ∀ c ∈ s.buf, c.1 < s.bufSize

theorem State.bufSize_bounds (s : State) : 86 ≤ s.bufSize ∧ s.bufSize ≤ 65535 :=
  ⟨s.params.bufSize_ge, s.params.bufSize_le⟩

/-- The form depends on the buffer and the parameters only. -/
theorem State.BufOk.congr {s t : State} (h : s.BufOk) (hb : t.buf = s.buf)
    (hp : t.params = s.params) : t.BufOk := by
  unfold State.BufOk State.bufSize at *
  rwa [hb, hp]

theorem State.BufOk.setByte {s : State} (h : s.BufOk) {a : Nat} (ha : a < s.bufSize) (v : Byte) :
    (s.setByte a v).BufOk := by
  refine ⟨Memory.wf_write h.1 a v, fun c hc => ?_⟩
  rcases Memory.mem_write hc with h' | h'
  · rw [h']; exact ha
  · exact h.2 c h'

theorem State.BufOk.memWrite {s : State} (h : s.BufOk) {a : Nat} {vs : List Byte}
    (ha : a + vs.length ≤ s.bufSize) : (s.memWrite a vs).BufOk := by
  refine ⟨Memory.wf_writeList h.1 a vs, fun c hc => ?_⟩
  rcases Memory.mem_writeList hc with h' | h'
  · show c.1 < s.bufSize
    omega
  · exact h.2 c h'

theorem State.BufOk.memWrites {s : State} (h : s.BufOk) {ws : List (Nat × List Byte)}
    (hw : ∀ w ∈ ws, w.1 + w.2.length ≤ s.bufSize) : (s.memWrites ws).BufOk := by
  refine ⟨Memory.wf_writeAll h.1 ws, fun c hc => ?_⟩
  rcases Memory.mem_writeAll hc with ⟨w, hw', h3, h4⟩ | h'
  · have := hw w hw'
    show c.1 < s.bufSize
    omega
  · exact h.2 c h'

theorem State.BufOk.fillCksum {s : State} (h : s.BufOk) {u : UpperLayer} (n : Nat)
    (hu : u.ckoff + 2 ≤ s.bufSize) : (s.fillCksum u n).BufOk :=
  State.BufOk.memWrite (s := s.cksum u n) (h.congr rfl rfl) hu

theorem State.BufOk.load {s : State} (h : s.BufOk) {f : Frame} (hf : f.length ≤ s.bufSize) :
    (s.load f).BufOk :=
  (State.BufOk.memWrite (a := 0) h (by omega)).congr rfl rfl

theorem State.BufOk.prepareReply {s : State} (h : s.BufOk) {ip : List Byte} (hip : ip.length = 16) :
    (s.prepareReply ip).BufOk := by
  have := s.bufSize_bounds
  exact h.memWrites (by simp [hip]; omega)

theorem State.BufOk.prepareSend {s : State} (h : s.BufOk) : s.prepareSend.BufOk := by
  have := s.bufSize_bounds
  exact h.memWrites (by simp; omega)

theorem State.BufOk.udpFinish {s : State} (h : s.BufOk) (len sp dp : Half) :
    ((s.buildUdp len sp dp).udpFinish len).BufOk := by
  have := s.bufSize_bounds
  have h2 : (s.buildUdp len sp dp).BufOk := h.memWrites (by simp; omega)
  have h3 := h2.fillCksum (u := .udp) (len.toNat + 8)
    (by show 62 ≤ s.bufSize; omega)
  exact h3.congr (by simp [State.udpFinish]) (by simp [State.udpFinish])

theorem State.BufOk.nsReply {s : State} (h : s.BufOk) : s.nsReply.BufOk := by
  have := s.bufSize_bounds
  have h1 : (s.prepareReply s.lip.toList).BufOk := h.prepareReply (by simp)
  have h2 : (s.prepareReply s.lip.toList).buildNa.BufOk :=
    h1.memWrites (by show ∀ w ∈ _, _ ≤ s.bufSize; simp; omega)
  have h3 := h2.fillCksum (u := .icmpv6) 32 (by show 58 ≤ s.bufSize; omega)
  exact h3.congr (by simp [State.nsReply]) (by simp [State.nsReply])

theorem State.BufOk.echo {s : State} (h : s.BufOk) (n : Nat) : (s.echo n).BufOk := by
  have := s.bufSize_bounds
  have h1 : (s.prepareReply (s.memRead 38 16)).BufOk := h.prepareReply (by simp)
  have h2 : (s.prepareReply (s.memRead 38 16)).buildEcho.BufOk :=
    h1.memWrites (by show ∀ w ∈ _, _ ≤ s.bufSize; simp; omega)
  have h3 := h2.fillCksum (u := .icmpv6) n (by show 58 ≤ s.bufSize; omega)
  exact h3.congr (by simp [State.echo]) (by simp [State.echo])

theorem ParseResult.bufOk {l r : State} {n : Nat} (h : ParseResult l n r) (hb : l.BufOk) :
    r.BufOk := by
  cases h with
  | ns => exact State.BufOk.nsReply (s := l.verify .icmpv6 l.plen) (hb.congr rfl rfl)
  | echo => exact State.BufOk.echo (s := l.verify .icmpv6 l.plen) (hb.congr rfl rfl) _
  | early => exact hb.congr rfl rfl
  | late => exact hb.congr rfl rfl
  | na => exact hb.congr rfl rfl
  | udp => exact hb.congr rfl rfl

/-- Every command keeps the buffer's canonical form and its bounds. -/
theorem CommandResult.bufOk {s t : State} (h : CommandResult s t) (hb : s.BufOk) : t.BufOk := by
  have hs := s.bufSize_bounds
  cases h with
  | fill u h =>
    have h1 := State.checkable_eq_some.mp h
    refine (hb.fillCksum (u := u) s.plen ?_).congr rfl rfl
    cases u <;> simp only [UpperLayer.ckoff, UpperLayer.minLen] at * <;> omega
  | send => exact hb.prepareSend.udpFinish _ _ _
  | reply => exact (hb.prepareReply (by simp)).udpFinish _ _ _
  | received f r h0 hl hr =>
    exact hr.bufOk (State.BufOk.load (s := s.dropAnswer.setCmderr .ok) (hb.congr rfl rfl) hl)
  | code => exact hb.congr rfl rfl
  | vfy => exact hb.congr rfl rfl
  | xmit => exact hb.congr rfl rfl
  | noframe => exact hb.congr rfl rfl
  | oversize => exact hb.congr rfl rfl

end Sys2Proof.Machine
end

