-- ==== Sys2Proof/Laws/PerInstr.lean ====
section
/-! SUPPORT. Statements about every instruction, one lemma per constructor. -/

namespace Sys2Proof.Laws

/-- A well-formed instruction whose encoding is a command word has a reserved word (R59) exactly when it is
RESERVED_CMD. -/
def ReservedWord.Statement (i : Instr) : Prop :=
  i.wf = true → ∀ w : Word, encode i = .cmd w → (reservedWord w = true ↔ ∃ v, i = .reservedCmd v)

/-- A command word with ZERO = 0, an opcode below 7 and an allowed LEN is not reserved. -/
theorem not_reservedWord {op : Byte} {len : Half} (hop : op.toNat < 7)
    (hlen : op = 2 ∨ op = 3 ∨ op = 6 ∨ len = 0) : reservedWord (cmdWord op len) = false := by
  rw [← Bool.not_eq_true, reservedWord_iff, cmdOp_cmdWord, cmdLen_cmdWord, cmdZero_cmdWord]
  rcases hlen with rfl | rfl | rfl | rfl <;> simp
  omega

theorem ReservedWord.nop : ReservedWord.Statement .nop := by
  intro _ w h
  cases h
  rw [not_reservedWord (op := 0x00) (by decide) (.inr (.inr (.inr rfl)))]
  simp

theorem ReservedWord.poll : ReservedWord.Statement .poll := by
  intro _ w h
  cases h
  rw [not_reservedWord (op := 0x01) (by decide) (.inr (.inr (.inr rfl)))]
  simp

theorem ReservedWord.udpsend (len : Half) : ReservedWord.Statement (.udpsend len) := by
  intro _ w h
  cases h
  rw [not_reservedWord (op := 0x02) (by decide) (.inl rfl)]
  simp

theorem ReservedWord.udpreply (len : Half) : ReservedWord.Statement (.udpreply len) := by
  intro _ w h
  cases h
  rw [not_reservedWord (op := 0x03) (by decide) (.inr (.inl rfl))]
  simp

theorem ReservedWord.ckfill : ReservedWord.Statement .ckfill := by
  intro _ w h
  cases h
  rw [not_reservedWord (op := 0x04) (by decide) (.inr (.inr (.inr rfl)))]
  simp

theorem ReservedWord.ckvfy : ReservedWord.Statement .ckvfy := by
  intro _ w h
  cases h
  rw [not_reservedWord (op := 0x05) (by decide) (.inr (.inr (.inr rfl)))]
  simp

theorem ReservedWord.xmit (len : Half) : ReservedWord.Statement (.xmit len) := by
  intro _ w h
  cases h
  rw [not_reservedWord (op := 0x06) (by decide) (.inr (.inr (.inl rfl)))]
  simp

theorem ReservedWord.reservedCmd (v : Word) : ReservedWord.Statement (.reservedCmd v) := by
  intro hw w h
  cases h
  exact ⟨fun _ => ⟨v, rfl⟩, fun _ => hw⟩

theorem ReservedWord.fShort (f : Frame) : ReservedWord.Statement (.fShort f) := by
  intro _ w h
  cases h

theorem ReservedWord.fNs (f : Frame) : ReservedWord.Statement (.fNs f) := by
  intro _ w h
  cases h

theorem ReservedWord.fNa (f : Frame) : ReservedWord.Statement (.fNa f) := by
  intro _ w h
  cases h

theorem ReservedWord.fEchoReq (f : Frame) : ReservedWord.Statement (.fEchoReq f) := by
  intro _ w h
  cases h

theorem ReservedWord.fUdp (f : Frame) : ReservedWord.Statement (.fUdp f) := by
  intro _ w h
  cases h

theorem ReservedWord.fIcmpOther (f : Frame) : ReservedWord.Statement (.fIcmpOther f) := by
  intro _ w h
  cases h

theorem ReservedWord.fOtherNh (f : Frame) : ReservedWord.Statement (.fOtherNh f) := by
  intro _ w h
  cases h

theorem ReservedWord.fBadVersion (f : Frame) : ReservedWord.Statement (.fBadVersion f) := by
  intro _ w h
  cases h

theorem ReservedWord.fNotIpv6 (f : Frame) : ReservedWord.Statement (.fNotIpv6 f) := by
  intro _ w h
  cases h

end Sys2Proof.Laws
end

