-- ==== Sys2Proof/Machine/Script.lean ====
section
/-! DEFINITION. The script notation of R75 and R76 as lists of host accesses: each line is one access or a
fixed expansion into several. The RX and TXLOG lines are State's `rx` and `txlog`. -/

namespace Sys2Proof.Machine

/-- `WR <REG> <number>`. -/
def lineWr (n : Nat) (v : Word) : List Access := [.wr n (.num v)]

/-- `BW <offset> <bytes>`: one byte access each, ascending (R75). -/
def lineBw : (offset : Half) → List Byte → List Access
  | _, [] => []
  | a, b :: bs => .bw a b :: lineBw (a + 1) bs

/-- `BR <offset> <n>`: n byte reads, ascending. -/
def lineBr : (offset : Half) → (n : Nat) → List Access
  | _, 0 => []
  | a, n + 1 => .br a :: lineBr (a + 1) n

/-- A command line: the word OP + 256 * n to CMD (R75). -/
def lineCommand (op : Byte) (n : Half) : List Access := lineWr 1 (cmdWord op n)

/-- `CONFIG <mac> <ip> <hop>` (R76). -/
def lineConfig (mac : Mac) (ip : Ip) (hop : Byte) : List Access :=
  [.wr 8 (.mac mac), .wr 9 (.ip ip), .wr 7 (.num (hop.setWidth 32)), .wr 0 (.num 1)]

/-- `REMOTE <mac> <ip> <port>` (R76). -/
def lineRemote (mac : Mac) (ip : Ip) (port : Half) : List Access :=
  [.wr 11 (.mac mac), .wr 12 (.ip ip), .wr 13 (.num (port.setWidth 32))]

/-- `PAYLOAD <bytes>` (R76): the bytes at the offset of the UDP data. -/
def linePayload (bytes : List Byte) : List Access := lineBw 62 bytes

/-- `SENDTO <mac> <ip> <port> <bytes>` (R76): the payload is written before the command (R207). -/
def lineSendto (mac : Mac) (ip : Ip) (port : Half) (bytes : List Byte) : List Access :=
  linePayload bytes ++ lineRemote mac ip port ++ lineCommand 0x02 (BitVec.ofNat 16 bytes.length)

/-- `REPLY <bytes>` (R76). -/
def lineReply (bytes : List Byte) : List Access :=
  linePayload bytes ++ lineCommand 0x03 (BitVec.ofNat 16 bytes.length)

end Sys2Proof.Machine
end

