-- ==== Sys2Proof/Tests/Slice0.lean ====
section
/-! SUPPORT. Tests: ill-formed terms, words written out from the spec's encodings, one-step checks with the
expected values of 95_test_vectors.md, and for every obligation with hypotheses a state and operands that
meet them all. -/

set_option Elab.async false

namespace Sys2Proof.Tests

open Sys2Proof.Machine

/-! ## Frames of the spec's vectors -/

/-- The `n` bytes of a number written in hexadecimal, first byte first. -/
def frameHex (n v : Nat) : Frame := (tableBytes n v).reverse

/-- the Neighbor Solicitation of V10. -/
def nsV10 : Frame :=
  frameHex 14 0x3333ff000001aabbccddeeff86dd ++
  frameHex 40
    0x6000000000203afffe800000000000000000000000000002ff0200000000000000000001ff000001 ++
  frameHex 32 0x8700160000000000fe8000000000000000000000000000010101aabbccddeeff

/-- the Advertisement V11 answers it with. -/
def naV11 : Frame :=
  frameHex 14 0xaabbccddeeff02000000000186dd ++
  frameHex 40
    0x6000000000203afffe800000000000000000000000000001fe800000000000000000000000000002 ++
  frameHex 32 0x8800181c60000000fe8000000000000000000000000000010201020000000001

/-- V47: a Solicitation with PLEN = 20. -/
def nsV47 : Frame :=
  frameHex 14 0x020000000001aabbccddeeff86dd ++
  frameHex 40
    0x6000000000143a40fe800000000000000000000000000002fe800000000000000000000000000001 ++
  frameHex 20 0x87007d2b00000000fe8000000000000000000000

/-- V53: a Solicitation for another target. -/
def nsV53 : Frame :=
  frameHex 14 0x3333ff000003aabbccddeeff86dd ++
  frameHex 40
    0x6000000000203afffe800000000000000000000000000002ff0200000000000000000001ff000003 ++
  frameHex 32 0x870015fc00000000fe8000000000000000000000000000030101aabbccddeeff

/-- V56: a Solicitation without option, PLEN = 24. -/
def nsV56 : Frame :=
  frameHex 14 0x3333ff000001aabbccddeeff86dd ++
  frameHex 40
    0x6000000000183afffe800000000000000000000000000002ff0200000000000000000001ff000001 ++
  frameHex 24 0x87007da200000000fe800000000000000000000000000001

/-- V54: a Neighbor Advertisement. -/
def naV54 : Frame :=
  frameHex 14 0x020000000001aabbccddeeff86dd ++
  frameHex 40
    0x6000000000203afffe800000000000000000000000000002fe800000000000000000000000000001 ++
  frameHex 32 0x8800b38260000000fe8000000000000000000000000000020201aabbccddeeff

/-- V22: the shortest Echo Request of the vectors, 62 bytes. -/
def echoV22 : Frame :=
  frameHex 14 0x020000000001aabbccddeeff86dd ++
  frameHex 40
    0x6000000000083a40fe800000000000000000000000000002fe800000000000000000000000000001 ++
  frameHex 8 0x8000a3e770696e67

/-- V57: an odd payload. -/
def echoV57 : Frame :=
  frameHex 14 0x020000000001aabbccddeeff86dd ++
  frameHex 40
    0x60000000000d3a40fe800000000000000000000000000002fe800000000000000000000000000001 ++
  frameHex 13 0x80002cac1234000168656c6c6f

/-- its reply. -/
def echoV57r : Frame :=
  frameHex 14 0xaabbccddeeff02000000000186dd ++
  frameHex 40
    0x60000000000d3afffe800000000000000000000000000001fe800000000000000000000000000002 ++
  frameHex 13 0x81002bac1234000168656c6c6f

/-- V52: a Router Advertisement-range type, 133. -/
def icmpV52 : Frame :=
  frameHex 14 0x333300000002aabbccddeeff86dd ++
  frameHex 40
    0x6000000000083afffe800000000000000000000000000002ff020000000000000000000000000002 ++
  frameHex 8 0x85007d3500000000

/-- V31: a UDP datagram with data abc. -/
def udpV31 : Frame :=
  frameHex 14 0x020000000001aabbccddeeff86dd ++
  frameHex 40
    0x60000000000b1140fe800000000000000000000000000002fe800000000000000000000000000001 ++
  frameHex 11 0x17701388000b1379616263

/-- what V30's UDPSEND of hello transmits. -/
def udpV30 : Frame :=
  frameHex 14 0xaabbccddeeff02000000000186dd ++
  frameHex 40
    0x60000000000d11fffe800000000000000000000000000001fe800000000000000000000000000002 ++
  frameHex 13 0x13881770000d940568656c6c6f

/-- what V32's UDPREPLY of ok transmits. -/
def udpV32 : Frame :=
  frameHex 14 0xaabbccddeeff02000000000186dd ++
  frameHex 40
    0x60000000000a11fffe800000000000000000000000000001fe800000000000000000000000000002 ++
  frameHex 10 0x13881770000a68726f6b

/-- V51: next header 6. -/
def nhV51 : Frame :=
  frameHex 14 0x020000000001aabbccddeeff86dd ++
  frameHex 40
    0x6000000000140640fe800000000000000000000000000002fe800000000000000000000000000001 ++
  frameHex 20 0x0000000000000000000000000000000000000000

/-- The MAC address the vectors call M, the block's own. -/
def macM : Mac := #v[0x02, 0x00, 0x00, 0x00, 0x00, 0x01]

/-- The MAC address the vectors call A, the peer's. -/
def macA : Mac := #v[0xaa, 0xbb, 0xcc, 0xdd, 0xee, 0xff]

/-- fe80::1, the block's own address. -/
def ip1 : Ip := #v[0xfe, 0x80, 0, 0, 0, 0, 0, 0, 0, 0, 0, 0, 0, 0, 0, 1]

/-- fe80::2, the peer's address. -/
def ip2 : Ip := #v[0xfe, 0x80, 0, 0, 0, 0, 0, 0, 0, 0, 0, 0, 0, 0, 0, 2]

/-! ## States -/

/-- After the vectors' CONFIG line, with LPORT, RMAC, RIP and RPORT as V30 sets them. -/
def base : State :=
  { State.reset with
    en := true, hoplim := 255, lmac := macM, lip := ip1, lport := 5000, rmac := macA, rip := ip2
    rport := 6000 }

/-- `base` with NI about to answer `f`. -/
def offered (f : Frame) : State := { base with rx := [some f] }

/-- `base` with a frame in the buffer. -/
def holding (f : Frame) : State := { base.memWrite 0 f with rxlen := BitVec.ofNat 16 f.length }

/-- The state an outcome goes on with. -/
def nextOf : Host.Outcome State Fault Refusal → State
  | .next t => t
  | .fault _ => State.reset
  | .refused _ => State.reset

/-- `exec`'s next state. -/
def after (i : Instr) (s : State) : State := nextOf (exec i s)

/-- Every instruction goes on (no arm of `exec` stops), so `after` is what it answers. -/
theorem exec_eq_after (i : Instr) (s : State) : exec i s = .next (after i s) := by
  cases i <;> rfl

/-- STATUS, RXLEN, TXLEN, CKACC and CKRES as a read returns them, and the frames transmitted. -/
def seen (s : State) : (Nat × Nat × Nat × Nat × Nat) × List Frame :=
  ((s.status.toBits.toNat, s.rxlen.toNat, s.txlen.toNat, s.ckacc.toNat, s.ckres.toNat), s.txlog)

/-! ## Ill-formed terms are refused -/

theorem test_wf_reserved_word_of_nop : (Instr.reservedCmd 0x00000000).wf = false := by decide
theorem test_wf_reserved_word_of_xmit : (Instr.reservedCmd 0x00000106).wf = false := by decide
theorem test_wf_short_empty : (Instr.fShort []).wf = false := by decide
theorem test_wf_short_of_54 : (Instr.fShort (echoV22.take 54)).wf = false := by decide +kernel
theorem test_wf_notIpv6_of_ipv6 : (Instr.fNotIpv6 echoV22).wf = false := by decide +kernel
theorem test_wf_badVersion_of_6 : (Instr.fBadVersion echoV22).wf = false := by decide +kernel
theorem test_wf_ns_of_na : (Instr.fNs naV54).wf = false := by decide +kernel
theorem test_wf_na_of_ns : (Instr.fNa nsV10).wf = false := by decide +kernel
theorem test_wf_echo_of_udp : (Instr.fEchoReq udpV31).wf = false := by decide +kernel
theorem test_wf_icmpOther_of_echo : (Instr.fIcmpOther echoV22).wf = false := by decide +kernel
theorem test_wf_udp_of_echo : (Instr.fUdp echoV22).wf = false := by decide +kernel
theorem test_wf_otherNh_of_udp : (Instr.fOtherNh udpV31).wf = false := by decide +kernel

/-! ## Decoding: words written out from R56, R57 (ZERO, LEN, OP) and frames from R70 -/

theorem test_decode_nop : decodeCmd 0b00000000_0000000000000000_00000000 = .nop := by decide
theorem test_decode_poll : decodeCmd 0b00000000_0000000000000000_00000001 = .poll := by decide
theorem test_decode_udpsend : decodeCmd 0b00000000_0000000000000101_00000010 = .udpsend 5 := by decide
theorem test_decode_udpreply : decodeCmd 0b00000000_1000000000000010_00000011 = .udpreply 0x8002 := by
  decide
theorem test_decode_ckfill : decodeCmd 0b00000000_0000000000000000_00000100 = .ckfill := by decide
theorem test_decode_ckvfy : decodeCmd 0b00000000_0000000000000000_00000101 = .ckvfy := by decide
theorem test_decode_xmit : decodeCmd 0b00000000_0000000001010110_00000110 = .xmit 86 := by decide
theorem test_decode_reserved_op : decodeCmd 0b00000000_0000000000000000_00000111 = .reservedCmd 7 := by
  decide
theorem test_decode_reserved_zero : decodeCmd 0x01000006 = .reservedCmd 0x01000006 := by decide
theorem test_decode_reserved_len : decodeCmd 0x00000100 = .reservedCmd 0x00000100 := by decide

/-- Decoding a frame gives the instruction. -/
def decodesTo (f : Frame) (i : Instr) : Bool :=
  match decodeFrame f with
  | .ok j => i == j
  | .error _ => false

theorem test_decode_ns : decodesTo nsV10 (.fNs nsV10) = true := by decide +kernel
theorem test_decode_na : decodesTo naV54 (.fNa naV54) = true := by decide +kernel
theorem test_decode_echo : decodesTo echoV22 (.fEchoReq echoV22) = true := by decide +kernel
theorem test_decode_icmpOther : decodesTo icmpV52 (.fIcmpOther icmpV52) = true := by decide +kernel
theorem test_decode_udp : decodesTo udpV31 (.fUdp udpV31) = true := by decide +kernel
theorem test_decode_otherNh : decodesTo nhV51 (.fOtherNh nhV51) = true := by decide +kernel
theorem test_decode_badVersion :
    decodesTo (echoV22.set 14 0x40) (.fBadVersion (echoV22.set 14 0x40)) = true := by decide +kernel
theorem test_decode_notIpv6 :
    decodesTo (echoV22.set 12 0x08) (.fNotIpv6 (echoV22.set 12 0x08)) = true := by decide +kernel
theorem test_decode_short : decodesTo (echoV22.take 53) (.fShort (echoV22.take 53)) = true := by
  decide +kernel
theorem test_decode_empty_refused : decodesTo [] (.fShort []) = false := by decide

/-- A table word of 32 bits is a command; of more bits a frame, byte 0 in bits 7..0. -/
theorem test_table_word_command : decodeTableWord 32 0x00000502 = some (.udpsend 5) := by decide
theorem test_table_word_frame :
    decodeTableWord 112 0xdd86ffeeddccbbaa010000000002 =
      some (.fShort (frameHex 14 0x020000000001aabbccddeeff86dd)) := by decide +kernel
theorem test_fetch_command :
    nextOf (step (State.reset.withFetchWord 32 0x00000502)) = after (.udpsend 5) State.reset := by
  decide +kernel
theorem test_fetch_frame :
    (nextOf (step (State.reset.withFetchWord 112 0xdd86ffeeddccbbaa010000000002))).status.disp =
      .dropShort := by decide +kernel

/-! ## One step of each instruction, against 95_test_vectors.md -/

theorem test_nop_clears_cmderr :
    (after .nop (base.setCmderr .badlen)).status.toBits = 0 := by decide +kernel
/-- V59. -/
theorem test_poll_noframe : seen (after .poll base) = ((0x0000, 0, 0, 0, 0), []) := by decide +kernel
/-- V70: a refused POLL consumes nothing. -/
theorem test_poll_disabled :
    (after .poll { offered echoV22 with en := false }).rx = [some echoV22] := by decide +kernel
/-- V30. -/
theorem test_udpsend_hello :
    seen (after (.udpsend 5) (base.memWrite 62 [0x68, 0x65, 0x6c, 0x6c, 0x6f])) =
      ((0x0000, 0, 67, 0x36BF7, 0x9405), [udpV30]) := by decide +kernel
/-- V32, from the state V31 leaves. -/
theorem test_udpreply_ok :
    seen (after (.udpreply 2) ((after (.fUdp udpV31) base).memWrite 62 [0x6f, 0x6b])) =
      ((0x008F, 65, 64, 0x2978B, 0x6872), [udpV32]) := by decide +kernel
/-- V68: the fill after a payload byte of V11's Advertisement is cleared. -/
theorem test_ckfill_stores :
    (after .ckfill (holding (naV11.set 85 0x00))).be16 56 = 0x181D := by decide +kernel
/-- V68: CKVFY before the fill. -/
theorem test_ckvfy_mismatch :
    seen (after .ckvfy (holding (naV11.set 85 0x00))) = ((0x0000, 86, 0, 0x3E7DF, 0x181D), []) := by
  decide +kernel
theorem test_ckvfy_match : (after .ckvfy (holding naV11)).status.ckok = true := by decide +kernel
/-- The whole of a 62-byte frame, and 13 bytes refused (V74). -/
theorem test_xmit_frame : (after (.xmit 62) (holding echoV22)).txlog = [echoV22] := by decide +kernel
theorem test_xmit_13_refused : (after (.xmit 13) base).status.toBits = 0x0300 := by decide +kernel
/-- V71, with EN = 0 too. -/
theorem test_reserved_badop :
    (after (.reservedCmd 0x00000007) State.reset).status.toBits = 0x0200 := by decide +kernel
/-- V40. -/
theorem test_short_dropped :
    seen (after (.fShort (echoV22.take 53)) base) = ((0x0002, 53, 0, 0, 0), []) := by decide +kernel
/-- V41. -/
theorem test_notIpv6_dropped :
    seen (after (.fNotIpv6 (echoV22.set 12 0x08)) base) = ((0x0003, 62, 0, 0, 0), []) := by
  decide +kernel
/-- V44. -/
theorem test_badVersion_dropped :
    seen (after (.fBadVersion (echoV22.set 14 0x40)) base) = ((0x0004, 62, 0, 0, 0), []) := by
  decide +kernel
/-- V51. -/
theorem test_otherNh_ignored :
    seen (after (.fOtherNh nhV51) base) = ((0x0009, 74, 0, 0, 0), []) := by decide +kernel
/-- V10, V11: the Advertisement byte for byte. -/
theorem test_ns_answered :
    seen (after (.fNs nsV10) base) = ((0x008C, 86, 86, 0x3E7E0, 0x181C), [naV11]) := by decide +kernel
/-- V53: a target that is not LIP. -/
theorem test_ns_other_target :
    seen (after (.fNs nsV53) base) = ((0x008B, 86, 0, 0x6E9FD, 0x15FC), []) := by decide +kernel
/-- V54. -/
theorem test_na_delivered : (after (.fNa naV54) base).status.toBits = 0x00CE := by decide +kernel
/-- V57: an odd payload, the whole reply. -/
theorem test_echo_answered :
    seen (after (.fEchoReq echoV57) base) = ((0x008D, 67, 67, 0x3D450, 0x2BAC), [echoV57r]) := by
  decide +kernel
/-- V52. -/
theorem test_icmpOther_ignored :
    seen (after (.fIcmpOther icmpV52) base) = ((0x008A, 62, 0, 0x282C8, 0x7D35), []) := by
  decide +kernel
/-- V31. -/
theorem test_udp_delivered :
    seen (after (.fUdp udpV31) base) = ((0x00AF, 65, 0, 0x2EC84, 0x1379), []) := by decide +kernel
/-- V55: a received checksum of 0x0000 never verifies. -/
theorem test_udp_zero_checksum :
    seen (after (.fUdp ((udpV31.set 60 0).set 61 0)) base) = ((0x0008, 65, 0, 0x2EC84, 0x1379), []) := by
  decide +kernel
/-- R76: SENDTO puts the payload before the command. -/
theorem test_sendto_line :
    lineSendto macA ip2 6000 [0x6f] =
      [.bw 62 0x6f, .wr 11 (.mac macA), .wr 12 (.ip ip2), .wr 13 (.num 6000),
        .wr 1 (.num 0x00000102)] := by decide +kernel

/-! ## Witnesses: for each obligation with hypotheses, values that meet them all, at the ends of the ranges -/

/-- `base` with the frame of V31, a UDP datagram, received and held. -/
def heldUdp : State := after (.fUdp udpV31) base

/-- `base` with the Advertisement of V54 received and held. -/
def heldNa : State := after (.fNa naV54) base

theorem test_witness_DecodeEncodeRoundTrip :
    [Instr.nop, .poll, .udpsend 0xFFFF, .udpreply 0, .ckfill, .ckvfy, .xmit 0xFFFF,
      .reservedCmd 0x01000000, .fShort [0], .fNs nsV10, .fNa naV54, .fEchoReq echoV22, .fUdp udpV31,
      .fIcmpOther (icmpV52.take 54), .fOtherNh (nhV51.take 54), .fBadVersion (echoV22.set 14 0x50),
      .fNotIpv6 (echoV22.set 13 0xDC)].all Instr.wf = true := by decide +kernel

theorem test_witness_DecodedEncodesBack :
    decode (.cmd 0x00000502) = .ok (.udpsend 5) ∧ decode (.frame [0]) = .ok (.fShort [0]) :=
  ⟨rfl, rfl⟩

theorem test_witness_FrameRowsAgreeWithClassTests : (echoV22.take 54) ≠ [] := by decide +kernel

theorem test_witness_ReservedWordsAreRefused :
    7 ≤ (0x00000007 : Word).toNat % 256 ∧ (0x01000001 : Word).toNat / 2 ^ 24 ≠ 0 ∧
      (0x00000105 : Word).toNat % 256 ∈ [0x00, 0x01, 0x04, 0x05] ∧
      (0x00000105 : Word).toNat / 256 % 65536 ≠ 0 ∧ decodeCmd 0xFFFFFF06 ≠ .xmit 0xFFFF := by decide

theorem test_witness_StepRunsDecodedCommand :
    (State.reset.withFetchWord 32 0xFFFFFFFF).host = .wr 1 (.num 0xFFFFFFFF) :: [] := by decide

theorem test_witness_StepTakesPlainAccess :
    ({ base with host := [.wr 1 (.mac macA)] } : State).host = .wr 1 (.mac macA) :: [] ∧
      (∀ w, Access.wr 1 (.mac macA) ≠ .wr 1 (.num w)) ∧ base.host = [] := by
  refine ⟨rfl, fun w => ?_, rfl⟩
  intro h
  cases h

theorem test_witness_PollRunsTheFrameClass :
    (offered nsV10).en = true ∧ (offered nsV10).rx = some nsV10 :: [] ∧
      decodesTo nsV10 (.fNs nsV10) = true := by decide +kernel

theorem test_witness_StepKeepsInv : heldUdp.Inv ∧ heldNa.Inv := by
  constructor <;> constructor <;> decide +kernel

theorem test_witness_StepKeepsHeldView :
    ({ heldUdp with host := [.bw 62 0] } : State).HeldView ∧
      ({ heldNa with host := [.bw 62 0] } : State).HeldView ∧ heldUdp.status.hold = .udp ∧
      heldNa.status.hold = .na ∧ 62 ≤ (62 : Half).toNat := by
  refine ⟨?_, ?_, ?_, ?_, ?_⟩
  · constructor <;> decide +kernel
  · constructor <;> decide +kernel
  all_goals decide +kernel

theorem test_witness_ResetEventResets :
    ({ heldUdp with host := [.reset] } : State).host = .reset :: [] := by decide +kernel

theorem test_witness_NopClearsCmderr :
    (0x00000100 : Word).toNat % 256 = 0 ∧ (0x00000100 : Word) ≠ 0 ∧
      (0x01000000 : Word).toNat % 256 = 0 ∧ (0x01000000 : Word) ≠ 0 := by decide

theorem test_witness_DisabledRefusesCommands : State.reset.en = false := by decide

theorem test_witness_RefusalChangesOnlyCmderr :
    (after (decodeCmd 0x00000007) base).status.cmderr ≠ .ok ∧
      exec (decodeCmd 0x00000007) base = .next (after (decodeCmd 0x00000007) base) :=
  ⟨by decide, rfl⟩

theorem test_witness_RefusalOrder :
    exec (decodeCmd 0x00000203) base = .next (after (decodeCmd 0x00000203) base) := rfl

theorem test_witness_XmitTransmitsAsItStands :
    base.en = true ∧ 14 ≤ (14 : Half).toNat ∧ (600 : Half).toNat ≤ base.bufSize ∧
      (13 : Half).toNat < 14 ∧ base.bufSize < (601 : Half).toNat := by decide

theorem test_witness_WordsAreBigEndianPairs : 0 < (words [0x01]).length ∧ 1 < (words [1, 2, 3]).length := by
  decide

theorem test_witness_FoldIsResidue : 0xFFFFFFFF < 2 ^ 32 := by decide

theorem test_witness_AccumulatorIsExact : 54 + 546 ≤ base.bufSize := by decide

theorem test_witness_SingleByteChangeDetected :
    22 ≤ 53 ∧ 53 < 54 + 11 ∧ 53 ≠ UpperLayer.udp.ckoff ∧ 53 ≠ UpperLayer.udp.ckoff + 1 ∧
      (0x00 : Byte) ≠ (holding udpV31).byte 53 ∧ 62 ≠ UpperLayer.udp.ckoff + 1 ∧
      (0x00 : Byte) ≠ (holding udpV31).byte 62 := by decide +kernel

theorem test_witness_VerifyComparesField :
    (holding ((udpV31.set 60 0).set 61 0)).be16 UpperLayer.udp.ckoff = 0 := by decide +kernel

/-- PLEN at the least value for each layer, and a segment that ends with the buffer. -/
theorem test_witness_CkfillStoresChecksum :
    ∀ p ∈ [(UpperLayer.icmpv6, holding ((echoV22.set 18 0x02).set 19 0x22)),
        (.icmpv6, holding (echoV22.set 19 0x04)), (.udp, holding (udpV31.set 19 0x08))],
      p.2.en = true ∧ 54 + p.2.plen ≤ p.2.bufSize ∧ p.2.nextHeader = p.1.nh ∧
        p.1.minLen ≤ p.2.plen := by decide +kernel

theorem test_witness_CkvfySetsCkok :
    (holding udpV31).en = true ∧ 54 + (holding udpV31).plen ≤ (holding udpV31).bufSize ∧
      (holding udpV31).nextHeader = UpperLayer.udp.nh ∧
      UpperLayer.udp.minLen ≤ (holding udpV31).plen := by decide +kernel

theorem test_witness_CkfillThenCkvfyMatches :
    (holding udpV31).en = true ∧
      exec .ckfill (holding udpV31) = .next (after .ckfill (holding udpV31)) ∧
      (after .ckfill (holding udpV31)).status.cmderr = .ok :=
  ⟨rfl, rfl, by decide +kernel⟩

theorem test_witness_UdpsendBuildsDatagram :
    base.en = true ∧ (0 : Half).toNat ≤ base.bufSize - 62 ∧ (538 : Half).toNat ≤ base.bufSize - 62 := by
  decide

theorem test_witness_UdpreplyAnswersSender :
    heldUdp.en = true ∧ heldUdp.status.hold = .udp ∧ (538 : Half).toNat ≤ heldUdp.bufSize - 62 := by
  decide +kernel

theorem test_witness_SecondReplyHasNoContext :
    base.en = true ∧ exec (.udpsend 0) base = .next (after (.udpsend 0) base) ∧
      (after (.udpsend 0) base).status.cmderr = .ok ∧ heldUdp.en = true ∧
      exec (.udpreply 0) heldUdp = .next (after (.udpreply 0) heldUdp) ∧
      (after (.udpreply 0) heldUdp).status.cmderr = .ok :=
  ⟨rfl, rfl, by decide +kernel, by decide +kernel, rfl, by decide +kernel⟩

theorem test_witness_SentDatagramIsDelivered :
    let s := base.memWrite 62 [0x68, 0x65, 0x6c, 0x6c, 0x6f]
    exec (.udpsend 5) s = .next (after (.udpsend 5) s) ∧
      (after (.udpsend 5) s).txlog = s.txlog ++ [udpV30] ∧ (offered udpV30).en = true ∧
      udpV30.length ≤ (offered udpV30).bufSize ∧ (offered udpV30).rx = some udpV30 :: [] :=
  ⟨rfl, by decide +kernel, rfl, by decide +kernel, rfl⟩

theorem test_witness_PollWithoutFrame :
    base.en = true ∧ base.rx.head? = none ∧
      ({ base with rx := [none] } : State).rx.head? = some none ∧
      (offered []).rx.head? = some (some []) := by decide +kernel

theorem test_witness_OversizeFrameIsLost :
    let f : Frame := List.replicate 601 0
    (offered f).en = true ∧ (offered f).rx = some f :: [] ∧ (offered f).bufSize < f.length := by
  refine ⟨rfl, rfl, ?_⟩
  decide +kernel

theorem test_witness_PollAlwaysEndsOk : base.en = true := rfl

/-- Clause by clause: 53 bytes; 54 bytes with another EtherType; 54 bytes with another version. -/
theorem test_witness_HeaderTestsDrop :
    (∀ f ∈ [echoV22.take 53, (echoV22.take 54).set 13 0xDC, (echoV22.take 54).set 14 0x50],
      (offered f).en = true ∧ (offered f).rx = some f :: [] ∧ 0 < f.length ∧
        f.length ≤ (offered f).bufSize) ∧
    (echoV22.take 53).length < 54 ∧
    (let f := (echoV22.take 54).set 13 0xDC
     54 ≤ f.length ∧ ¬ (f[12]? = some 0x86 ∧ f[13]? = some 0xDD)) ∧
    (let f := (echoV22.take 54).set 14 0x50
     54 ≤ f.length ∧ (f[12]? = some 0x86 ∧ f[13]? = some 0xDD) ∧ f[14]? = some 0x50 ∧
       (0x50 : Byte).toNat / 16 ≠ 6) := by decide +kernel

theorem test_witness_HeaderClassesComplete :
    nhV51.length ≤ base.bufSize ∧ 54 + (base.load nhV51).plen ≤ nhV51.length := by decide +kernel

/-- One byte short of the length PLEN asks for. -/
theorem test_witness_LengthCheckDrops :
    (echoV22.take 61).length ≤ base.bufSize ∧
      (echoV22.take 61).length < 54 + (base.load (echoV22.take 61)).plen := by decide +kernel

/-- PLEN = 3, and PLEN = 4 with a wrong checksum. -/
theorem test_witness_IcmpEntryDrops :
    (let f := echoV22.set 19 3
     f.length ≤ base.bufSize ∧ 54 + (base.load f).plen ≤ f.length ∧ (base.load f).plen < 4) ∧
    (let f := echoV22.set 19 4
     f.length ≤ base.bufSize ∧ 54 + (base.load f).plen ≤ f.length ∧ 4 ≤ (base.load f).plen ∧
      ((base.load f).be16 56).toNat ≠ ckfinal ((base.load f).rawSum .icmpv6 (base.load f).plen)) := by
  decide +kernel

/-- What R132's check asks of a loaded frame. -/
def icmpOk (f : Frame) : Bool :=
  decide (f.length ≤ base.bufSize ∧ 54 + (base.load f).plen ≤ f.length ∧ 4 ≤ (base.load f).plen ∧
    ((base.load f).be16 56).toNat = ckfinal ((base.load f).rawSum .icmpv6 (base.load f).plen))

/-- PLEN = 20, and PLEN = 32 with another target. -/
theorem test_witness_NeighborChecks :
    icmpOk nsV47 = true ∧ (base.load nsV47).plen < 24 ∧ icmpOk nsV53 = true ∧
      24 ≤ (base.load nsV53).plen ∧ (base.load nsV53).ndTarget ≠ base.lip.toList := by decide +kernel

/-- PLEN = 32 for F_NA, PLEN = 8 for F_ICMP_OTHER. -/
theorem test_witness_IcmpDeliveredOrIgnored :
    icmpOk naV54 = true ∧ 24 ≤ (base.load naV54).plen ∧ icmpOk icmpV52 = true := by decide +kernel

/-- PLEN = 24, the least. -/
theorem test_witness_SolicitationIsAnswered :
    icmpOk nsV56 = true ∧ (base.load nsV56).plen = 24 ∧
      (base.load nsV56).ndTarget = base.lip.toList := by decide +kernel

theorem test_witness_EchoIsAnswered : icmpOk echoV22 = true ∧ icmpOk echoV57 = true := by decide +kernel

/-- PLEN = 7; PLEN = 8 with another UDP length; both equal with a wrong checksum. -/
theorem test_witness_UdpChecksDrop :
    (let f := udpV31.set 19 7
     f.length ≤ base.bufSize ∧ 54 + (base.load f).plen ≤ f.length ∧ (base.load f).plen < 8) ∧
    (let f := udpV31.set 19 8
     f.length ≤ base.bufSize ∧ 54 + (base.load f).plen ≤ f.length ∧ 8 ≤ (base.load f).plen ∧
      ((base.load f).be16 58).toNat ≠ (base.load f).plen) ∧
    (let f := udpV31.set 64 0x64
     f.length ≤ base.bufSize ∧ 54 + (base.load f).plen ≤ f.length ∧ 8 ≤ (base.load f).plen ∧
      ((base.load f).be16 58).toNat = (base.load f).plen ∧
      ((base.load f).be16 60).toNat ≠ ckfinal ((base.load f).rawSum .udp (base.load f).plen)) := by
  decide +kernel

theorem test_witness_DatagramIsDelivered :
    udpV31.length ≤ base.bufSize ∧ 54 + (base.load udpV31).plen ≤ udpV31.length ∧
      8 ≤ (base.load udpV31).plen ∧ ((base.load udpV31).be16 58).toNat = (base.load udpV31).plen ∧
      ((base.load udpV31).be16 60).toNat =
        ckfinal ((base.load udpV31).rawSum .udp (base.load udpV31).plen) := by decide +kernel

theorem test_witness_PollTransmitsOnlyReplies :
    (offered nsV10).en = true ∧ exec .poll (offered nsV10) = .next (after .poll (offered nsV10)) ∧
      (after .poll (offered nsV10)).status.disp = .repliedNa :=
  ⟨rfl, rfl, by decide +kernel⟩

theorem test_witness_OneAdvertisementToTheSource :
    (offered nsV10).en = true ∧ (offered nsV10).rx = some nsV10 :: [] ∧
      nsV10.length ≤ (offered nsV10).bufSize ∧ frameClass nsV10 = .ns ∧
      54 + ((offered nsV10).load nsV10).plen ≤ nsV10.length ∧
      24 ≤ ((offered nsV10).load nsV10).plen ∧
      (((offered nsV10).load nsV10).be16 56).toNat =
        ckfinal (((offered nsV10).load nsV10).rawSum .icmpv6 ((offered nsV10).load nsV10).plen) ∧
      ((offered nsV10).load nsV10).ndTarget = (offered nsV10).lip.toList := by decide +kernel

theorem test_witness_EveryReplyVerifies :
    (offered echoV57).en = true ∧
      exec .poll (offered echoV57) = .next (after .poll (offered echoV57)) ∧
      (after .poll (offered echoV57)).status.disp = .repliedEcho ∧
      (after .poll (offered nsV10)).status.disp = .repliedNa :=
  ⟨rfl, rfl, by decide +kernel, by decide +kernel⟩

theorem test_witness_UnexaminedFieldsDoNotMatter :
    let g := (((echoV22.set 0 0x33).set 14 0x6F).set 17 0xFF).set 21 1
    (offered echoV22).en = true ∧ (offered echoV22).rx = some echoV22 :: [] ∧
      echoV22.length = g.length ∧
      (∀ i, 6 ≤ i → i ∉ [14, 15, 16, 17, 21] → echoV22[i]? = g[i]?) ∧
      (frameByte echoV22 14).extractLsb' 4 4 = (frameByte g 14).extractLsb' 4 4 ∧
      exec .poll (offered echoV22) = .next (after .poll (offered echoV22)) ∧ echoV22 ≠ g := by
  refine ⟨rfl, rfl, by decide +kernel, fun i h h' => ?_, by decide +kernel, rfl, by decide +kernel⟩
  simp only [List.mem_cons, List.not_mem_nil, or_false, not_or] at h'
  rw [List.getElem?_set_ne (by omega), List.getElem?_set_ne (by omega),
    List.getElem?_set_ne (by omega), List.getElem?_set_ne (by omega)]

theorem test_witness_OnlyHostWritesConfigure :
    exec (.fEchoReq echoV22) base = .next (after (.fEchoReq echoV22) base) ∧
      (let s : State := { base with host := [.wr 1 (.num 0x00000100)] }
       (∀ rest, s.host ≠ .reset :: rest) ∧
         (∀ n ∈ [0, 7, 8, 9, 10, 11, 12, 13], ∀ v rest, s.host ≠ .wr n v :: rest) ∧
         step s = .next (nextOf (step s))) ∧
      (let s : State := { base with host := [.wr 6 (.num 1)] }
       (∀ rest, s.host ≠ .reset :: rest) ∧
         (∀ n ∈ [0, 7, 8, 9, 10, 11, 12, 13], ∀ v rest, s.host ≠ .wr n v :: rest) ∧
         step s = .next (nextOf (step s))) :=
  ⟨rfl, ⟨by simp, by simp, rfl⟩, by simp, by simp, rfl⟩

theorem test_witness_StatusFieldWriters :
    exec (decodeCmd 0x00000005) (holding udpV31) =
        .next (after (decodeCmd 0x00000005) (holding udpV31)) ∧
      decodeCmd 0x00000005 ≠ .poll ∧ decodeCmd 0x00000004 ≠ .poll ∧ decodeCmd 0x00000004 ≠ .ckvfy :=
  ⟨rfl, by decide, by decide, by decide⟩

theorem test_witness_HoldLifecycle :
    exec (decodeCmd 0x00000001) (offered udpV31) =
      .next (after (decodeCmd 0x00000001) (offered udpV31)) := rfl

theorem test_witness_TransmitLogOnlyGrows :
    exec (.xmit 14) (holding echoV22) = .next (after (.xmit 14) (holding echoV22)) := rfl

theorem test_witness_CtrlWriteSetsEnable :
    ({ base with host := [.wr 0 (.num 0xFE)] } : State).host = .wr 0 (.num 0xFE) :: [] := by decide

theorem test_witness_RegisterWrites :
    (∀ a ∈ [Access.wr 7 (.num 0xFF), .wr 8 (.mac macA), .wr 9 (.ip ip2), .wr 10 (.num 0xFFFF),
        .wr 11 (.mac macM), .wr 12 (.ip ip1), .wr 13 (.num 0xFFFF), .wr 14 (.num 1)],
      ({ base with host := [a] } : State).host = a :: []) ∧
      14 ∉ [0, 1, 7, 8, 9, 10, 11, 12, 13] ∧ 6 ∉ [0, 1, 7, 8, 9, 10, 11, 12, 13] :=
  ⟨fun _ _ => rfl, by decide, by decide⟩

/-- R13, R28, R25: a write that fits is the register's whole new value. -/
theorem test_register_writes :
    (nextOf (step { base with host := [.wr 7 (.num 0xFF)] })).hoplim = 0xFF ∧
      (nextOf (step { base with host := [.wr 10 (.num 0xFFFF)] })).lport = 0xFFFF ∧
      (nextOf (step { base with host := [.wr 13 (.num 0xABCD)] })).rport = 0xABCD ∧
      (nextOf (step { base with host := [.wr 11 (.mac macM)] })).rmac = macM := by decide +kernel

theorem test_witness_RegisterReads :
    ({ base with host := [.rd 41] } : State).host = .rd 41 :: [] ∧ 40 < 41 := by decide +kernel

theorem test_witness_BufferByteAccess :
    ({ base with host := [.bw 599 1, .br 600] } : State).host = .bw 599 1 :: [.br 600] ∧
      (599 : Half).toNat < base.bufSize ∧ ¬ (600 : Half).toNat < base.bufSize := by decide +kernel

end Sys2Proof.Tests
end

/-! The reserved command words of R59: the test in numbers, the decoder's answer, and the refusal. -/

namespace Sys2Proof.Encoding

open Sys2Proof.Machine

/-- The test of R59 in numbers: OP, ZERO and LEN are the quotients and remainders of the word. -/
theorem reservedWord_iff_toNat (w : Word) :
    reservedWord w = true ↔
      7 ≤ w.toNat % 256 ∨ w.toNat / 2 ^ 24 ≠ 0 ∨
        (w.toNat % 256 ∈ [0x00, 0x01, 0x04, 0x05] ∧ w.toNat / 256 % 65536 ≠ 0) := by
  rw [reservedWord_iff]
  simp only [← BitVec.toNat_inj, ne_eq, cmdOp_toNat, cmdLen_toNat, cmdZero_toNat, List.mem_cons,
    List.not_mem_nil, or_false]
  rfl

/-- A word whose ZERO is 0 and whose LEN is 0 where its opcode asks for that is not reserved. -/
theorem not_reservedWord_of_fields {w : Word} (hzero : cmdZero w = 0) (hop : (cmdOp w).toNat < 7)
    (hlen : cmdOp w = 2 ∨ cmdOp w = 3 ∨ cmdOp w = 6 ∨ cmdLen w = 0) : ¬ reservedWord w = true := by
  rw [← cmdWord_of_zero hzero, Laws.not_reservedWord hop hlen]
  exact Bool.false_ne_true

/-- The decoder answers RESERVED_CMD for the words that R59 reserves and for no other. -/
theorem decodeCmd_eq_reservedCmd_iff (w : Word) :
    decodeCmd w = .reservedCmd w ↔ reservedWord w = true := by
  rcases decodeCmd_cases w with ⟨hzero, hcmd⟩ | ⟨hres, hdec⟩
  · rcases hcmd with ⟨o, l, e⟩ | ⟨o, l, e⟩ | ⟨o, e⟩ | ⟨o, e⟩ | ⟨o, l, e⟩ | ⟨o, l, e⟩ | ⟨o, e⟩ <;>
      exact iff_of_false (by simp [e]) (not_reservedWord_of_fields hzero (by simp [o]) (by simp [*]))
  · exact iff_of_true hdec hres

/-- RESERVED_CMD is refused with BADOP without a look at EN (R59, R165). -/
theorem exec_reservedCmd (w : Word) (s : State) :
    exec (.reservedCmd w) s = .next (s.refuse .badop) := rfl

/-- A refusal writes CMDERR and nothing else (R186). -/
theorem refuse_eq (s : State) (c : CmdErr) :
    s.refuse c = { s with status := { s.status with cmderr := c } } := rfl

/-- Settles O5: the decoder's RESERVED_CMD is R59's test, and its meaning is the refusal with BADOP. -/
theorem reservedWordsAreRefused : Obligations.ReservedWordsAreRefused := by
  intro w s
  constructor
  · rw [decodeCmd_eq_reservedCmd_iff, reservedWord_iff_toNat]
  · rw [exec_reservedCmd, refuse_eq]

end Sys2Proof.Encoding

/-! The header tests of R81 to R83: the procedure's tests on the loaded buffer are those on the frame's own
bytes, and a frame that fails one is received and dropped. -/

namespace Sys2Proof.HeaderTests

open Sys2Proof.Machine

/-! ## The tests on the buffer, in bytes -/

/-- EtherType 0x86DD stands in the buffer as 86 dd, the most significant byte first (R42). -/
theorem etherType_eq_iff (s : State) :
    s.etherType = 0x86DD ↔ s.byte 12 = 0x86 ∧ s.byte 13 = 0xDD := by
  have hword : s.etherType.toNat = 256 * (s.byte 12).toNat + (s.byte 13).toNat := s.be16_toNat 12
  have hlow := (s.byte 13).isLt
  simp only [← BitVec.toNat_inj, hword, BitVec.reduceToNat]
  omega

/-- The version is the high half of byte 14 (R61). -/
theorem ipVersion_eq_iff (s : State) : s.ipVersion = 6 ↔ (s.byte 14).toNat / 16 = 6 := by
  have hbyte := (s.byte 14).isLt
  simp only [← BitVec.toNat_inj, State.ipVersion, BitVec.extractLsb'_toNat, BitVec.reduceToNat,
    Nat.shiftRight_eq_div_pow]
  omega

/-- A byte of a loaded frame is the frame's own byte. -/
theorem getElem?_eq_byte_load (s : State) {f : Frame} {x : Nat} (hx : x < f.length) :
    f[x]? = some ((s.load f).byte x) := by
  rw [State.byte_load, dif_pos hx, List.getElem?_eq_getElem hx]

/-- R82's test on a loaded frame. -/
theorem etherType_load_iff (s : State) {f : Frame} (hlen : 54 ≤ f.length) :
    (s.load f).etherType = 0x86DD ↔ f[12]? = some 0x86 ∧ f[13]? = some 0xDD := by
  rw [etherType_eq_iff, getElem?_eq_byte_load s (by omega : 12 < f.length),
    getElem?_eq_byte_load s (by omega : 13 < f.length), Option.some_inj, Option.some_inj]

/-- R83's test on a loaded frame whose byte 14 is `b`. -/
theorem ipVersion_load_iff (s : State) {f : Frame} (hlen : 54 ≤ f.length) {b : Byte}
    (hb : f[14]? = some b) : (s.load f).ipVersion = 6 ↔ b.toNat / 16 = 6 := by
  rw [getElem?_eq_byte_load s (by omega : 14 < f.length), Option.some_inj] at hb
  rw [ipVersion_eq_iff, hb]

/-! ## The first failed test ends `Parse(L)` (R89) -/

theorem parse_of_short {l : State} {n : Nat} (hlen : n < 54) : l.parse n = l.drop .dropShort :=
  if_pos hlen

theorem parse_of_otherEthertype {l : State} {n : Nat} (hlen : 54 ≤ n)
    (htype : l.etherType ≠ 0x86DD) : l.parse n = l.drop .dropEthertype := by
  rw [State.parse, if_neg (by omega), if_pos htype]

theorem parse_of_otherVersion {l : State} {n : Nat} (hlen : 54 ≤ n) (htype : l.etherType = 0x86DD)
    (hver : l.ipVersion ≠ 6) : l.parse n = l.drop .dropVersion := by
  rw [State.parse, if_neg (by omega), if_neg (not_not.mpr htype), if_pos hver]

/-! ## The dropped frame -/

/-- `f` fails the test of R81, of R82 or of R83, having passed those before it, and `c` is that test's code. -/
def FailsHeaderTest (f : Frame) (c : Disp) : Prop :=
  (f.length < 54 ∧ c = .dropShort) ∨
  (54 ≤ f.length ∧ ¬ (f[12]? = some 0x86 ∧ f[13]? = some 0xDD) ∧ c = .dropEthertype) ∨
  (54 ≤ f.length ∧ (f[12]? = some 0x86 ∧ f[13]? = some 0xDD) ∧
    (∃ b, f[14]? = some b ∧ b.toNat / 16 ≠ 6) ∧ c = .dropVersion)

/-- The parser ends a loaded frame with the code of the header test that the frame fails. -/
theorem parse_load_of_failsHeaderTest (s : State) {f : Frame} {c : Disp} (h : FailsHeaderTest f c) :
    (s.load f).parse f.length = (s.load f).drop c := by
  rcases h with ⟨hshort, rfl⟩ | ⟨hlen, htype, rfl⟩ | ⟨hlen, htype, ⟨b, hb, hver⟩, rfl⟩
  · exact parse_of_short hshort
  · exact parse_of_otherEthertype hlen (mt (etherType_load_iff s hlen).mp htype)
  · exact parse_of_otherVersion hlen ((etherType_load_iff s hlen).mpr htype)
      (mt (ipVersion_load_iff s hlen hb).mp hver)

/-- A drop right after the load: the frame received, the code in DISP, nothing held or computed (R183). -/
theorem drop_load (s : State) (f : Frame) (c : Disp) :
    ((s.setCmderr .ok).load f).drop c =
      s.received f ⟨c, .none, s.status.ckok, .ok⟩ s.ckacc s.ckres := rfl

/-- Receiving a frame that fits and fails a header test. -/
theorem receive_of_failsHeaderTest {s : State} {f : Frame} {c : Disp} (hfits : f.length ≤ s.bufSize)
    (h : FailsHeaderTest f c) :
    s.receive f State.parse = s.received f ⟨c, .none, s.status.ckok, .ok⟩ s.ckacc s.ckres := by
  rw [State.receive_of_fits hfits, parse_load_of_failsHeaderTest _ h, drop_load]

/-- Settles O37: POLL receives the frame, and the first header test it fails drops it. -/
theorem headerTestsDrop : Obligations.HeaderTestsDrop := by
  intro s f rest hen hrx hpos hfits c hfails
  refine ⟨_, ?_, State.receivedOnly (s := { s with rx := rest }) hfits rfl _ _, rfl, rfl, rfl⟩
  rw [State.exec_poll_of_frame hen hrx (List.ne_nil_of_length_pos hpos)]
  exact congrArg _ (receive_of_failsHeaderTest hfits hfails)

end Sys2Proof.HeaderTests

/-! The view registers (R96): the fields that are no whole bytes as numbers, the arrays as runs of bytes, and
what an access by number does. -/

namespace Sys2Proof.ViewRegisters

open Sys2Proof.Machine

/-! ## The fields as numbers -/

/-- A number register reads as its own value, zero-extended. -/
theorem numVal_eq_of_toNat {w : Nat} {v : BitVec w} {n : Nat} (h : v.toNat = n) :
    numVal v = .num (BitVec.ofNat 32 n) := by
  rw [numVal, ← BitVec.ofNat_toNat, h]

theorem ipVersion_toNat (s : State) : s.ipVersion.toNat = (s.byte 14).toNat / 16 := by
  have hbyte := (s.byte 14).isLt
  rw [State.ipVersion, BitVec.extractLsb'_toNat, Nat.shiftRight_eq_div_pow]
  omega

theorem trafficClass_toNat (s : State) :
    s.trafficClass.toNat = (s.byte 14).toNat % 16 * 16 + (s.byte 15).toNat / 16 := by
  have hlow := (s.byte 15).isLt
  rw [State.trafficClass, BitVec.toNat_append, ← Nat.shiftLeft_add_eq_or_of_lt (BitVec.isLt _),
    Nat.shiftLeft_eq]
  simp only [BitVec.extractLsb'_toNat, Nat.shiftRight_eq_div_pow]
  omega

theorem flowLabel_toNat (s : State) :
    s.flowLabel.toNat =
      (s.byte 15).toNat % 16 * 65536 + (s.byte 16).toNat * 256 + (s.byte 17).toNat := by
  rw [State.flowLabel, BitVec.toNat_append, ← Nat.shiftLeft_add_eq_or_of_lt (BitVec.isLt _),
    BitVec.toNat_append, ← Nat.shiftLeft_add_eq_or_of_lt (BitVec.isLt _)]
  simp only [Nat.shiftLeft_eq, BitVec.extractLsb'_toNat, Nat.shiftRight_eq_div_pow]
  omega

/-- V_UPLEN is taken modulo 2^16, so that a PLEN below 8 wraps (R96). -/
theorem be16_sub_eight_toNat (s : State) (a : Nat) :
    (s.be16 a - 8).toNat = ((s.be16 a).toNat + 65536 - 8) % 65536 := by
  simp only [BitVec.toNat_sub, BitVec.reduceToNat]
  omega

/-! ## The arrays as runs of bytes -/

theorem macAt_toList (s : State) (a : Nat) : (s.macAt a).toList = s.memRead a 6 := rfl

theorem ipAt_toList (s : State) (a : Nat) : (s.ipAt a).toList = s.memRead a 16 := rfl

/-! ## Accesses by number -/

theorem readNum_of_regOf (s : State) {n : Nat} {r : Reg} (h : regOf n = some r) :
    s.readNum n = s.readReg r := by
  rw [State.readNum, h]

/-- From 16 on a register number is that of a view register or reserved (R13). -/
theorem mem_viewRegs_of_regOf {n : Nat} {r : Reg} (hn : 16 ≤ n) (h : regOf n = some r) :
    r ∈ viewRegs := by
  rw [regOf, if_neg (by omega)] at h
  exact List.mem_of_getElem? h

theorem writeReg_of_mem_viewRegs (s : State) {r : Reg} (hr : r ∈ viewRegs) (v : RegVal) :
    s.writeReg r v = s := by
  fin_cases hr <;> rfl

/-- No write of a register number from 16 on has an effect: view registers are read-only (R96) and the
numbers above them reserved (R13). -/
theorem writeNum_of_ge (s : State) {n : Nat} (hn : 16 ≤ n) (v : RegVal) : s.writeNum n v = s := by
  unfold State.writeNum
  split
  next r hr => exact writeReg_of_mem_viewRegs s (mem_viewRegs_of_regOf hn hr) v
  next => rfl

/-- Settles O55: each number names its register, whose value is the field itself; the version, the
traffic class, the flow label and V_UPLEN are then taken as numbers. -/
theorem viewRegistersShowTheBuffer : Obligations.ViewRegistersShowTheBuffer := by
  intro s
  have read {n : Nat} (r : Reg) (h : regOf n = some r) := readNum_of_regOf s h
  refine ⟨read .vDmac rfl, read .vSmac rfl, read .vEtype rfl, ?version, ?trafficClass, ?flowLabel,
    read .vPlen rfl, read .vNh rfl, read .vHlim rfl, read .vSip rfl, read .vDip rfl,
    read .vPoff rfl, read .vSport rfl, read .vDport rfl, read .vUlen rfl, read .vUck rfl,
    read .vUoff rfl, ?udpLength, read .vItype rfl, read .vIcode rfl, read .vIck rfl,
    read .vTgt rfl, read .vOptt rfl, read .vOptl rfl, read .vOptmac rfl, s.be16_toNat,
    fun a => ⟨macAt_toList s a, ipAt_toList s a⟩, fun n v hn _ => writeNum_of_ge s hn v⟩
  case version => exact (read .vVer rfl).trans (numVal_eq_of_toNat (ipVersion_toNat s))
  case trafficClass => exact (read .vTc rfl).trans (numVal_eq_of_toNat (trafficClass_toNat s))
  case flowLabel => exact (read .vFlow rfl).trans (numVal_eq_of_toNat (flowLabel_toNat s))
  case udpLength => exact (read .vUplen rfl).trans (numVal_eq_of_toNat (be16_sub_eight_toNat s 18))

end Sys2Proof.ViewRegisters

/-! The checksum unit: the words of a byte string and their sum (R110), what folding keeps (R112), and the
final value with its fix-up (R115). -/

namespace Sys2Proof.ChecksumUnit

open Sys2Proof.Machine

/-! ## The words of a byte string (R110) -/

theorem words_length (b : List Byte) : (words b).length = (b.length + 1) / 2 := by
  induction b using words.induct with
  | case1 => rfl
  | case2 x => simp [words]
  | case3 x y bs ih =>
    simp only [words, List.length_cons, ih]
    omega

/-- Word `k` is the pair at `2 * k`, a missing last byte counted as zero. -/
theorem words_getElem? (b : List Byte) (k : Nat) (hk : k < (words b).length) :
    (words b)[k]? = some (256 * (b.getD (2 * k) 0).toNat + (b.getD (2 * k + 1) 0).toNat) := by
  induction b using words.induct generalizing k with
  | case1 => exact absurd hk (Nat.not_lt_zero k)
  | case2 x =>
    obtain rfl : k = 0 := Nat.lt_one_iff.mp hk
    rfl
  | case3 x y bs ih =>
    cases k with
    | zero => rfl
    | succ k => exact ih k (Nat.lt_of_succ_lt_succ hk)

@[simp] theorem byteWeight_zero : byteWeight 0 = 256 := rfl

@[simp] theorem byteWeight_one : byteWeight 1 = 1 := rfl

@[simp] theorem byteWeight_add_two (i : Nat) : byteWeight (i + 2) = byteWeight i := by
  rw [byteWeight, Nat.add_mod_right, byteWeight]

/-- A sum over the bytes of a string and their positions, the first byte taken off. -/
theorem sum_bytes_cons (f : Byte → Nat → Nat) (x : Byte) (bs : List Byte) :
    ∑ i : Fin (x :: bs).length, f (x :: bs)[i] i = f x 0 + ∑ i : Fin bs.length, f bs[i] (i + 1) :=
  Fin.sum_univ_succ (n := bs.length) fun i => f (x :: bs)[i.val] i

/-- The word sum, byte by byte: taking a pair off the front leaves the weights of the rest as they are. -/
theorem wordSum_eq_sum_byteWeight (b : List Byte) :
    wordSum b = ∑ i : Fin b.length, b[i].toNat * byteWeight i := by
  induction b using words.induct with
  | case1 => rfl
  | case2 x =>
    rw [sum_bytes_cons fun c i => c.toNat * byteWeight i]
    simp [Nat.mul_comm]
  | case3 x y bs ih =>
    rw [wordSum_cons_cons, sum_bytes_cons fun c i => c.toNat * byteWeight i,
      sum_bytes_cons fun c i => c.toNat * byteWeight (i + 1)]
    simp only [Nat.zero_add, byteWeight_zero, byteWeight_one, byteWeight_add_two, ← ih]
    omega

/-- Settles O20: the words by the recursion that cuts them off, and their sum by the weight of each byte. -/
theorem wordsAreBigEndianPairs : Obligations.WordsAreBigEndianPairs := by
  intro b
  exact ⟨words_length b, words_getElem? b, rfl, wordSum_eq_sum_byteWeight b, rfl, rfl⟩

/-! ## Folding (R112) -/

/-- The loop ends at a number that fits 16 bits. -/
theorem fold_of_le {s : Nat} (h : s ≤ 0xFFFF) : fold s = s := by
  rw [fold_eq, if_neg (by omega)]

/-- One round of the loop. -/
theorem fold_of_lt {s : Nat} (h : 0xFFFF < s) : fold s = fold (s % 65536 + s / 65536) := by
  rw [fold_eq, if_pos h]

/-- A number below 2^32 fits 16 bits after two rounds: the first leaves at most 0x1FFFE. -/
theorem two_rounds_le {s : Nat} (h : s < 2 ^ 32) :
    (s % 65536 + s / 65536) % 65536 + (s % 65536 + s / 65536) / 65536 ≤ 0xFFFF := by
  omega

theorem fold_eq_zero_iff (s : Nat) : fold s = 0 ↔ s = 0 := by
  obtain ⟨-, hzero, -⟩ := fold_spec s
  exact ⟨hzero, by rintro rfl; rfl⟩

/-- Settles O21: the loop and its invariant, the residue modulo 65535, are `fold_eq` and `fold_spec`. -/
theorem foldIsResidue : Obligations.FoldIsResidue := by
  refine ⟨fold_eq, fun s => two_rounds_le, fun s => ?residue, ?_, ?_, ?_, ?_⟩
  case residue =>
    obtain ⟨hle, -, hmod⟩ := fold_spec s
    exact ⟨hle, fold_eq_zero_iff s, hmod⟩
  all_goals simp [fold_of_lt, fold_of_le]

/-! ## The final value (R115) -/

/-- 0xFFFF is the final value in two cases: the fix-up, and the plain complement of zero. -/
theorem ckfinal_eq_ffff_iff (s : Nat) : ckfinal s = 0xFFFF ↔ fold s = 0xFFFF ∨ fold s = 0 := by
  obtain ⟨hle, -, -⟩ := fold_spec s
  unfold ckfinal
  split <;> omega

/-- Settles O22: the bounds and the two cases of 0xFFFF, and CKRES as the final value of the raw sum. -/
theorem finalChecksumFixUp : Obligations.FinalChecksumFixUp := by
  refine ⟨fun s => rfl, fun s => ?bounds, State.cksum_ckres_toNat, ?_, ?_, ?_, ?_, ?_⟩
  case bounds =>
    obtain ⟨hle, hne⟩ := ckfinal_spec s
    exact ⟨hne, hle, ckfinal_eq_ffff_iff s⟩
  all_goals simp [ckfinal, fold_of_lt, fold_of_le]

end Sys2Proof.ChecksumUnit

/-! Control: NOP and the reserved words that share its opcode (R167), the step of an access that is no
command (R169), and CTRL, of which bit 0 alone is stored and read (R168). -/

namespace Sys2Proof.Control

open Sys2Proof.Machine

/-! ## NOP (R167) -/

/-- NOP writes CMDERR without a look at EN. -/
theorem exec_nop (s : State) : exec .nop s = .next (s.setCmderr .ok) := rfl

/-- The word 0 is the one word of opcode 0 that is not reserved: in any other LEN or ZERO is not 0 (R59). -/
theorem reservedWord_of_op_zero {w : Word} (hop : w.toNat % 256 = 0) (hw : w ≠ 0) :
    reservedWord w = true := by
  have hpos : w.toNat ≠ 0 := fun h => hw (BitVec.eq_of_toNat_eq h)
  have hlt : w.toNat < 2 ^ 32 := w.isLt
  rw [Encoding.reservedWord_iff_toNat]
  by_cases hzero : w.toNat / 2 ^ 24 = 0
  · have hlen : w.toNat / 256 % 65536 ≠ 0 := by omega
    exact .inr (.inr ⟨by simp [hop], hlen⟩)
  · exact .inr (.inl hzero)

/-- Settles O15: 0 decodes to NOP, and every other word of opcode 0 is a reserved word. -/
theorem nopClearsCmderr : Obligations.NopClearsCmderr := by
  refine ⟨by decide, fun s => ⟨exec_nop s, fun w hop hw => ?_⟩⟩
  have hres : decodeCmd w = .reservedCmd w :=
    (Encoding.decodeCmd_eq_reservedCmd_iff w).2 (reservedWord_of_op_zero hop hw)
  rw [hres, Encoding.exec_reservedCmd, Encoding.refuse_eq]

/-! ## The step of a plain access (R169) -/

/-- An access that starts no command step is taken by itself. -/
theorem step_of_plain {s : State} {a : Access} {rest : List Access} (hhost : s.host = a :: rest)
    (hplain : a.command = none) :
    step s = .next (({ s with host := rest } : State).plainAccess a) := by
  have hfetch : s.fetch = .plain a { s with host := rest } := by
    simp only [State.fetch, hhost, hplain]
  rw [step, hfetch]

/-- A write to any register but CMD starts no command step. -/
theorem command_wr_of_ne {n : Nat} (h : regOf n ≠ some .cmd) (v : RegVal) :
    (Access.wr n v).command = none := by
  cases v with
  | num w => exact if_neg h
  | mac m => rfl
  | ip a => rfl

/-- The step of a write to a register that is not CMD is the register's write. -/
theorem step_wr {s : State} {n : Nat} {r : Reg} {v : RegVal} {rest : List Access}
    (hreg : regOf n = some r) (hr : r ≠ .cmd) (hhost : s.host = .wr n v :: rest) :
    step s = .next (({ s with host := rest } : State).writeReg r v) := by
  have hcmd : regOf n ≠ some .cmd := by simpa [hreg] using hr
  rw [step_of_plain hhost (command_wr_of_ne hcmd v), State.plainAccess, State.writeNum, hreg]

/-! ## CTRL (R168) -/

theorem writeReg_ctrl (s : State) (v : Word) :
    s.writeReg .ctrl (.num v) = { s with en := v.getLsbD 0 } := rfl

/-- A read of CTRL is EN zero-extended: bits 7:1 read 0 (R15). -/
theorem numVal_ctrlBits (en : Bool) : numVal (ctrlBits en) = .num ((BitVec.ofBool en).setWidth 32) := by
  cases en <;> rfl

/-- Bit 0 of a word, read back as the word of CTRL, is the word without its other bits. -/
theorem numVal_ctrlBits_getLsbD_zero (v : Word) : numVal (ctrlBits (v.getLsbD 0)) = .num (v &&& 1) := by
  rw [numVal_ctrlBits]
  exact congrArg RegVal.num (BitVec.and_one_eq_setWidth_ofBool_getLsbD).symm

/-- Settles O57: the step is CTRL's write, and CTRL then reads as the bit that was written. -/
theorem ctrlWriteSetsEnable : Obligations.CtrlWriteSetsEnable := by
  intro s v rest hhost
  constructor
  · rw [step_wr (r := .ctrl) rfl (by decide) hhost, writeReg_ctrl]
  · rw [ViewRegisters.readNum_of_regOf _ (r := .ctrl) rfl]
    exact numVal_ctrlBits_getLsbD_zero v

end Sys2Proof.Control

/-! Refusals: a command step leaves one CMDERR code, a refusal changes nothing else (R186), no old code is
looked at, and the code is that of the first test that fails in R189's order. -/

namespace Sys2Proof.Refusals

open Sys2Proof.Machine

/-! ## The commands and their gate (R166) -/

theorem exec_poll (s : State) : exec .poll s = .next (s.whenEnabled State.poll) := rfl

theorem exec_udpsend (len : Half) (s : State) :
    exec (.udpsend len) s = .next (s.whenEnabled (·.udpsend len)) := rfl

theorem exec_udpreply (len : Half) (s : State) :
    exec (.udpreply len) s = .next (s.whenEnabled (·.udpreply len)) := rfl

theorem exec_ckfill (s : State) :
    exec .ckfill s = .next (s.whenEnabled fun s => s.onSegment fun u => s.fillCksum u s.plen) := rfl

theorem exec_ckvfy (s : State) :
    exec .ckvfy s = .next (s.whenEnabled fun s => s.onSegment fun u => s.verify u s.plen) := rfl

theorem exec_xmit (len : Half) (s : State) :
    exec (.xmit len) s = .next (s.whenEnabled (·.xmit len)) := rfl

/-! ## A refusal changes CMDERR only (R186) -/

/-- Every end of a command step but the bare code writes OK. -/
theorem eq_setCmderr_of_refused {s t : State} (h : CommandResult s t) (hne : t.status.cmderr ≠ .ok) :
    t = s.setCmderr t.status.cmderr := by
  cases h with
  | code e => rfl
  | received f r h0 hfits hr =>
    have hok : t.status.cmderr = .ok := by rw [hr.cmderr, State.load_cmderr, State.setCmderr_cmderr]
    exact absurd hok hne
  | fill | vfy | send | reply | xmit | noframe | oversize => exact absurd (by simp) hne

/-! ## The old code is not looked at (R186) -/

/-- The answer of `run` does not depend on the CMDERR code it starts from. -/
def IgnoresCmderr (run : State → State) : Prop := ∀ (s : State) (e : CmdErr), run (s.setCmderr e) = run s

theorem ignoresCmderr_setCmderr (c : CmdErr) : IgnoresCmderr (·.setCmderr c) := fun _ _ => rfl

theorem ignoresCmderr_refuse (c : CmdErr) : IgnoresCmderr (·.refuse c) := fun _ _ => rfl

theorem IgnoresCmderr.whenEnabled {run : State → State} (h : IgnoresCmderr run) :
    IgnoresCmderr (·.whenEnabled run) := by
  intro s e
  simp only [State.whenEnabled, State.setCmderr_en, h s e, ignoresCmderr_refuse .disabled s e]

/-- The precondition of R119 is about the buffer, and the code is written last. -/
theorem ignoresCmderr_onSegment {run : State → UpperLayer → State}
    (h : ∀ u, IgnoresCmderr fun s => (run s u).setCmderr .ok) :
    IgnoresCmderr fun s => s.onSegment (run s) := by
  intro s e
  have hcheck : (s.setCmderr e).checkable = s.checkable := rfl
  simp only [State.onSegment, hcheck]
  cases s.checkable with
  | none => exact ignoresCmderr_refuse .badframe s e
  | some u => exact h u s e

theorem ignoresCmderr_poll : IgnoresCmderr State.poll := by
  intro s e
  have hnext : (s.setCmderr e).nextFrame = s.nextFrame := rfl
  simp only [State.poll, hnext]
  cases s.nextFrame <;> rfl

/-- The end both sends share writes the code last. -/
theorem ignoresCmderr_udpFinish (len : Half) : IgnoresCmderr (·.udpFinish len) := fun _ _ => rfl

theorem ignoresCmderr_udpsend (len : Half) : IgnoresCmderr (·.udpsend len) := by
  intro s e
  have hbuild : (s.setCmderr e).prepareSend.buildUdp len s.lport s.rport =
      (s.prepareSend.buildUdp len s.lport s.rport).setCmderr e := rfl
  simp only [State.udpsend, State.bufSize, State.setCmderr_params, State.setCmderr_lport,
    State.setCmderr_rport, hbuild, ignoresCmderr_refuse .badlen s e, ignoresCmderr_udpFinish len _ e]

theorem ignoresCmderr_udpreply (len : Half) : IgnoresCmderr (·.udpreply len) := by
  intro s e
  have hbuild : ((s.setCmderr e).prepareReply s.lip.toList).buildUdp len s.lport (s.be16 54) =
      ((s.prepareReply s.lip.toList).buildUdp len s.lport (s.be16 54)).setCmderr e := rfl
  have hport : (s.setCmderr e).be16 54 = s.be16 54 := rfl
  simp only [State.udpreply, State.bufSize, State.setCmderr_params, State.setCmderr_hold,
    State.setCmderr_lip, State.setCmderr_lport, hport, hbuild, ignoresCmderr_refuse .noctx s e,
    ignoresCmderr_refuse .badlen s e, ignoresCmderr_udpFinish len _ e]

theorem ignoresCmderr_ckfill : IgnoresCmderr fun s => s.onSegment fun u => s.fillCksum u s.plen :=
  ignoresCmderr_onSegment fun _ _ _ => rfl

theorem ignoresCmderr_ckvfy : IgnoresCmderr fun s => s.onSegment fun u => s.verify u s.plen :=
  ignoresCmderr_onSegment fun _ _ _ => rfl

theorem ignoresCmderr_xmit (len : Half) : IgnoresCmderr (·.xmit len) := fun _ _ => rfl

/-- No command word looks at the code that the command before it left. -/
theorem exec_setCmderr (w : Word) (s : State) (e : CmdErr) :
    exec (decodeCmd w) (s.setCmderr e) = exec (decodeCmd w) s := by
  rcases decodeCmd_cases w with ⟨-, hcmd⟩ | ⟨-, hdec⟩
  · rcases hcmd with ⟨-, -, hdec⟩ | ⟨-, -, hdec⟩ | ⟨-, hdec⟩ | ⟨-, hdec⟩ | ⟨-, -, hdec⟩ |
      ⟨-, -, hdec⟩ | ⟨-, hdec⟩ <;> rw [hdec]
    · exact congrArg Host.Outcome.next (ignoresCmderr_setCmderr .ok s e)
    · exact congrArg Host.Outcome.next (ignoresCmderr_poll.whenEnabled s e)
    · exact congrArg Host.Outcome.next ((ignoresCmderr_udpsend _).whenEnabled s e)
    · exact congrArg Host.Outcome.next ((ignoresCmderr_udpreply _).whenEnabled s e)
    · exact congrArg Host.Outcome.next (ignoresCmderr_ckfill.whenEnabled s e)
    · exact congrArg Host.Outcome.next (ignoresCmderr_ckvfy.whenEnabled s e)
    · exact congrArg Host.Outcome.next ((ignoresCmderr_xmit _).whenEnabled s e)
  · rw [hdec]
    exact congrArg Host.Outcome.next (ignoresCmderr_refuse .badop s e)

/-- Settles O17: the inversion lemma of a command step gives the first half, `exec_setCmderr` the second. -/
theorem refusalChangesOnlyCmderr : Obligations.RefusalChangesOnlyCmderr := by
  intro w s
  exact ⟨fun t h => eq_setCmderr_of_refused (command_result h), exec_setCmderr w s⟩

/-! ## The code of each command's own tests -/

/-- DISABLED comes before the command's own tests (R166, R189). -/
theorem cmderr_whenEnabled (s : State) (run : State → State) :
    (s.whenEnabled run).status.cmderr = if s.en = false then .disabled else (run s).status.cmderr := by
  cases hen : s.en with
  | false => rw [State.whenEnabled_of_not hen, State.setCmderr_cmderr, if_pos rfl]
  | true => rw [State.whenEnabled_of_en hen, if_neg nofun]

/-- An enabled POLL has no test of its own (R80). -/
theorem cmderr_poll (s : State) : s.poll.status.cmderr = .ok := by
  rcases s.poll_cases with ⟨-, h⟩ | ⟨f, -, -, h⟩ | ⟨f, -, -, -, h⟩
  · simp [h]
  · simp [h]
  · rw [h.cmderr, State.load_cmderr, State.setCmderr_cmderr]

theorem cmderr_udpsend (s : State) (len : Half) :
    (s.udpsend len).status.cmderr = if s.bufSize - 62 < len.toNat then .badlen else .ok := by
  unfold State.udpsend
  split
  · rfl
  · rw [State.udpFinish_status]

theorem cmderr_udpreply (s : State) (len : Half) :
    (s.udpreply len).status.cmderr =
      if s.status.hold ≠ .udp then .noctx
      else if s.bufSize - 62 < len.toNat then .badlen else .ok := by
  unfold State.udpreply
  split
  · rfl
  · split
    · rfl
    · rw [State.udpFinish_status]

theorem cmderr_xmit (s : State) (len : Half) :
    (s.xmit len).status.cmderr = if len.toNat < 14 ∨ s.bufSize < len.toNat then .badlen else .ok := by
  unfold State.xmit
  split <;> rfl

/-- R119 in numbers: the segment lies in the buffer and is long enough for the header of its layer. -/
theorem isSome_checkable_iff (s : State) :
    s.checkable.isSome ↔
      54 + (s.be16 18).toNat ≤ s.bufSize ∧
        ((s.byte 20 = 58 ∧ 4 ≤ (s.be16 18).toNat) ∨ (s.byte 20 = 17 ∧ 8 ≤ (s.be16 18).toNat)) := by
  rw [Option.isSome_iff_exists]
  constructor
  · rintro ⟨u, hu⟩
    obtain ⟨hfits, hnh, hmin⟩ := State.checkable_eq_some.mp hu
    cases u with
    | icmpv6 => exact ⟨hfits, .inl ⟨hnh, hmin⟩⟩
    | udp => exact ⟨hfits, .inr ⟨hnh, hmin⟩⟩
  · rintro ⟨hfits, ⟨hnh, hmin⟩ | ⟨hnh, hmin⟩⟩
    · exact ⟨.icmpv6, State.checkable_eq_some.mpr ⟨hfits, hnh, hmin⟩⟩
    · exact ⟨.udp, State.checkable_eq_some.mpr ⟨hfits, hnh, hmin⟩⟩

theorem cmderr_onSegment (s : State) (run : UpperLayer → State) :
    (s.onSegment run).status.cmderr =
      if 54 + (s.be16 18).toNat ≤ s.bufSize ∧
          ((s.byte 20 = 58 ∧ 4 ≤ (s.be16 18).toNat) ∨ (s.byte 20 = 17 ∧ 8 ≤ (s.be16 18).toNat))
      then .ok else .badframe := by
  simp only [← isSome_checkable_iff, State.onSegment]
  cases s.checkable <;> rfl

/-! ## The order of the tests (R189) -/

/-- Settles O18: reserved words first; for each command the gate and then its own tests. -/
theorem refusalOrder : Obligations.RefusalOrder := by
  intro w s t h
  dsimp only
  rcases decodeCmd_cases w with ⟨hzero, hcmd⟩ | ⟨hres, hdec⟩
  · rw [← cmdOp_toNat, ← cmdLen_toNat, ← cmdZero_toNat, hzero]
    rcases hcmd with ⟨hop, hlen, hdec⟩ | ⟨hop, hlen, hdec⟩ | ⟨hop, hdec⟩ | ⟨hop, hdec⟩ |
      ⟨hop, hlen, hdec⟩ | ⟨hop, hlen, hdec⟩ | ⟨hop, hdec⟩ <;> rw [hdec] at h <;> rw [hop]
    · cases (Control.exec_nop s).symm.trans h
      simp [hlen]
    · cases (exec_poll s).symm.trans h
      simp [hlen, cmderr_whenEnabled, cmderr_poll]
    · cases (exec_udpsend _ s).symm.trans h
      simp [cmderr_whenEnabled, cmderr_udpsend]
    · cases (exec_udpreply _ s).symm.trans h
      simp [cmderr_whenEnabled, cmderr_udpreply]
    · cases (exec_ckfill s).symm.trans h
      simp [hlen, cmderr_whenEnabled, cmderr_onSegment]
    · cases (exec_ckvfy s).symm.trans h
      simp [hlen, cmderr_whenEnabled, cmderr_onSegment]
    · cases (exec_xmit _ s).symm.trans h
      simp [cmderr_whenEnabled, cmderr_xmit]
  · rw [if_pos ((Encoding.reservedWord_iff_toNat w).1 hres)]
    cases (Encoding.exec_reservedCmd w s).symm.trans (hdec ▸ h)
    rfl

end Sys2Proof.Refusals

/-! Decode and encode: the rows of the opcode table find the class of R70's tests, and an instruction and its
word or frame determine each other (R55 to R59, R70). -/

namespace Sys2Proof.RoundTrip

open Sys2Proof.Machine

/-! ## The tests that the rows of the table share -/

theorem all_testIpv6 (f : Frame) :
    testIpv6.all (·.passes f) = true ↔ frameByte f 12 = 0x86 ∧ frameByte f 13 = 0xDD := by
  simp only [testIpv6, List.all_cons, List.all_nil, Bool.and_true, Bool.and_eq_true, passes_ff]

theorem all_testVersion6 (f : Frame) :
    testVersion6.all (·.passes f) = true ↔
      testIpv6.all (·.passes f) = true ∧ (frameByte f 14).extractLsb' 4 4 = 6 := by
  simp only [testVersion6, List.all_append, List.all_cons, List.all_nil, Bool.and_true,
    Bool.and_eq_true, passes_version]

/-- `passes_ff` as an equation, the mask spelled as `simp` leaves it. -/
theorem passes_eq_decide (i : Nat) (v : Byte) (f : Frame) :
    (ByteTest.mk i 255#8 v).passes f = decide (frameByte f i = v) := by
  rw [Bool.eq_iff_iff, decide_eq_true_iff]
  exact passes_ff i v f

/-- For a frame that is not short a row's byte tests decide. -/
theorem accepts_of_ge {f : Frame} (hlen : ¬ f.length < 54) (c : FrameClass) (ts : List ByteTest) :
    (FrameRow.mk c false ts).accepts f = ts.all (·.passes f) := by
  simp [FrameRow.accepts, hlen]

theorem accepts_short (f : Frame) :
    (FrameRow.mk .short true []).accepts f = decide (f.length < 54) := by
  simp [FrameRow.accepts]

/-- The first row that accepts a frame is the row of the class that R70's tests find. -/
theorem isClass_find?_frameRows (f : Frame) :
    (frameRows.find? (·.accepts f)).map FrameRow.isClass = some (frameClass f) := by
  by_cases hlen : f.length < 54
  · have hclass : frameClass f = .short := if_pos hlen
    simp [hclass, frameRows, accepts_short, hlen]
  by_cases hip : testIpv6.all (·.passes f) = true
  swap
  · have hclass : frameClass f = .notIpv6 := by
      rw [frameClass, if_neg hlen, if_pos (mt (all_testIpv6 f).2 hip)]
    have hver : testVersion6.all (·.passes f) = false :=
      Bool.eq_false_iff.2 fun h => hip ((all_testVersion6 f).1 h).1
    simp [hclass, frameRows, accepts_short, accepts_of_ge hlen, testIcmpv6, hlen, hip, hver]
  have htype := not_not.mpr ((all_testIpv6 f).1 hip)
  by_cases hver : testVersion6.all (·.passes f) = true
  swap
  · have hclass : frameClass f = .badVersion := by
      rw [frameClass, if_neg hlen, if_neg htype, if_pos fun h => hver ((all_testVersion6 f).2 ⟨hip, h⟩)]
    simp [hclass, frameRows, accepts_short, accepts_of_ge hlen, testIcmpv6, hlen, hip, hver]
  have hclass : frameClass f =
      if frameByte f 20 = 58 then
        if frameByte f 54 = 135 then .ns
        else if frameByte f 54 = 136 then .na
        else if frameByte f 54 = 128 then .echoReq
        else .icmpOther
      else if frameByte f 20 = 17 then .udp
      else .otherNh := by
    rw [frameClass, if_neg hlen, if_neg htype, if_neg (not_not.mpr ((all_testVersion6 f).1 hver).2)]
  rw [hclass]
  split_ifs <;>
    simp_all [frameRows, accepts_short, accepts_of_ge hlen, passes_eq_decide, testIcmpv6]

/-! ## Frames (R55, R70, R80) -/

/-- A byte string that is not empty decodes to the instruction of its class. -/
theorem decodeFrame_of_ne_nil {f : Frame} (hf : f ≠ []) :
    decodeFrame f = .ok ((frameClass f).instr f) := by
  obtain ⟨r, hfind, hr⟩ := Option.map_eq_some_iff.mp (isClass_find?_frameRows f)
  have hnil : f.isEmpty = false := by simpa using hf
  simp [decodeFrame, hnil, hfind, hr]

theorem frameOf_iff (c : FrameClass) (f : Frame) : frameOf c f = true ↔ f ≠ [] ∧ frameClass f = c := by
  simp [frameOf]

theorem decodeFrame_of_frameOf {c : FrameClass} {f : Frame} (h : frameOf c f = true) :
    decodeFrame f = .ok (c.instr f) := by
  obtain ⟨hf, rfl⟩ := (frameOf_iff c f).1 h
  exact decodeFrame_of_ne_nil hf

theorem wf_instr (c : FrameClass) (f : Frame) : (c.instr f).wf = frameOf c f := by
  cases c <;> rfl

theorem encode_instr (c : FrameClass) (f : Frame) : encode (c.instr f) = .frame f := by
  cases c <;> rfl

/-- Settles O3: the first row that accepts a frame is the row of its class. -/
theorem frameRowsAgreeWithClassTests : Obligations.FrameRowsAgreeWithClassTests :=
  ⟨fun _ => decodeFrame_of_ne_nil, rfl⟩

/-! ## Command words (R56 to R59) -/

/-- The word of an opcode and an argument has ZERO = 0, so its opcode decides. -/
theorem decodeCmd_cmdWord (op : Byte) (len : Half) :
    decodeCmd (cmdWord op len) = decodeOp (cmdWord op len) := if_pos (cmdZero_cmdWord op len)

/-- Settles O1: a command's word decodes by its opcode and LEN, a reserved word by R59's test, a frame by
its class. -/
theorem decodeEncodeRoundTrip : Obligations.DecodeEncodeRoundTrip := by
  intro i hwf
  cases i with
  | nop | poll | ckfill | ckvfy => decide
  | udpsend len | udpreply len | xmit len =>
    simp [encode, decode, decodeCmd_cmdWord, decodeOp]
  | reservedCmd w => exact congrArg Except.ok ((Encoding.decodeCmd_eq_reservedCmd_iff w).2 hwf)
  | fShort f | fNs f | fNa f | fEchoReq f | fUdp f | fIcmpOther f | fOtherNh f | fBadVersion f
  | fNotIpv6 f => exact decodeFrame_of_frameOf hwf

/-- A command word's instruction is well formed and has that word as its encoding. -/
theorem wf_and_encode_decodeCmd (w : Word) :
    (decodeCmd w).wf = true ∧ encode (decodeCmd w) = .cmd w := by
  rcases decodeCmd_cases w with ⟨hzero, hcmd⟩ | ⟨hres, hdec⟩
  · have hword := congrArg Encoding.cmd (cmdWord_of_zero hzero)
    rcases hcmd with ⟨hop, hlen, hdec⟩ | ⟨hop, hlen, hdec⟩ | ⟨hop, hdec⟩ | ⟨hop, hdec⟩ |
      ⟨hop, hlen, hdec⟩ | ⟨hop, hlen, hdec⟩ | ⟨hop, hdec⟩ <;>
      simp only [*] at hword <;> rw [hdec] <;> exact ⟨rfl, hword⟩
  · rw [hdec]
    exact ⟨hres, rfl⟩

/-- Settles O2: for a command word by the cases of the decoder, for a frame by its class. -/
theorem decodedEncodesBack : Obligations.DecodedEncodesBack := by
  intro e i h
  cases e with
  | cmd w =>
    cases h
    exact wf_and_encode_decodeCmd w
  | frame f =>
    by_cases hf : f = []
    · subst hf
      cases h
    · cases (decodeFrame_of_ne_nil hf).symm.trans h
      exact ⟨(wf_instr _ f).trans ((frameOf_iff _ f).2 ⟨hf, rfl⟩), encode_instr _ f⟩

/-- Settles O4: eight words written out. -/
theorem writtenOutWordsDecode : Obligations.WrittenOutWordsDecode := by
  unfold Obligations.WrittenOutWordsDecode
  decide

end Sys2Proof.RoundTrip

/-! The host's accesses: the step that takes one (R165, R169, R171), registers by number (R13, R17, R38),
buffer bytes (R45) and reset (R37, R200). -/

namespace Sys2Proof.Accesses

open Sys2Proof.Machine

/-! ## Which access a step takes -/

/-- A command word waiting at CMD is decoded and run. -/
theorem step_of_command {s : State} {a : Access} {rest : List Access} {w : Word}
    (hhost : s.host = a :: rest) (hcmd : a.command = some w) :
    step s = exec (decodeCmd w) { s with host := rest } := by
  have hfetch : s.fetch = .command w { s with host := rest } := by
    simp only [State.fetch, hhost, hcmd]
  rw [step, hfetch]

theorem step_of_idle {s : State} (hhost : s.host = []) : step s = .next s := by
  have hfetch : s.fetch = .idle := by simp only [State.fetch, hhost]
  rw [step, hfetch]

/-- CMD is register 1 and no other (R13). -/
theorem regOf_eq_cmd_iff (n : Nat) : regOf n = some .cmd ↔ n = 1 := by
  refine ⟨fun h => ?_, by rintro rfl; rfl⟩
  by_cases hn : n < 16
  · have hworking : ∀ k < 16, workingRegs[k]? = some .cmd → k = 1 := by decide
    rw [regOf, if_pos hn] at h
    exact hworking n hn h
  · have hview := ViewRegisters.mem_viewRegs_of_regOf (by omega) h
    exact absurd hview (by decide)

/-- Only a word written to register 1 starts a command step. -/
theorem command_eq_some_iff (a : Access) (w : Word) : a.command = some w ↔ a = .wr 1 (.num w) := by
  cases a with
  | wr n v =>
    cases v with
    | num x => simp [Access.command, regOf_eq_cmd_iff]
    | mac m | ip x => simp [Access.command]
  | reset | rd n | br x | bw x v => simp [Access.command]

/-- Settles O6: the write of a word to register 1 is the access that carries a command. -/
theorem stepRunsDecodedCommand : Obligations.StepRunsDecodedCommand :=
  fun _ _ _ hhost => step_of_command hhost ((command_eq_some_iff _ _).2 rfl)

/-- Settles O7: an access that is no word for register 1 carries no command. -/
theorem stepTakesPlainAccess : Obligations.StepTakesPlainAccess := by
  refine fun s => ⟨fun a rest hhost hne => Control.step_of_plain hhost ?_, step_of_idle⟩
  exact Option.eq_none_iff_forall_ne_some.2 fun w hw => hne w ((command_eq_some_iff a w).1 hw)

/-- Everything a step can be: idle, a plain access, or a command step. -/
theorem step_cases (s : State) :
    (s.host = [] ∧ step s = .next s) ∨
    (∃ a rest, s.host = a :: rest ∧ a.command = none ∧
      step s = .next (({ s with host := rest } : State).plainAccess a)) ∨
    ∃ w rest, s.host = .wr 1 (.num w) :: rest ∧ step s = exec (decodeCmd w) { s with host := rest } := by
  cases hhost : s.host with
  | nil => exact .inl ⟨rfl, step_of_idle hhost⟩
  | cons a rest =>
    cases hcmd : a.command with
    | none => exact .inr (.inl ⟨a, rest, rfl, hcmd, Control.step_of_plain hhost hcmd⟩)
    | some w =>
      obtain rfl := (command_eq_some_iff a w).1 hcmd
      exact .inr (.inr ⟨w, rest, rfl, step_of_command hhost hcmd⟩)

/-- Every meaning is a next state (R180). -/
theorem exists_exec_eq_next (i : Instr) (s : State) : ∃ t, exec i s = .next t := by
  cases i <;> exact ⟨_, rfl⟩

/-- Settles O9: every meaning is a next state, and so is every plain access. -/
theorem nothingStops : Obligations.NothingStops := by
  refine ⟨exists_exec_eq_next, fun s => ?_⟩
  rcases step_cases s with ⟨-, h⟩ | ⟨a, rest, -, -, h⟩ | ⟨w, rest, -, h⟩
  · exact ⟨_, h⟩
  · exact ⟨_, h⟩
  · rw [h]
    exact exists_exec_eq_next _ _

/-! ## Registers by number -/

theorem readNum_of_regOf_none (s : State) {n : Nat} (h : regOf n = none) : s.readNum n = .num 0 := by
  rw [State.readNum, h]
  rfl

/-- The numbers that R13 reserves. -/
theorem regOf_reserved {n : Nat} (h : n = 14 ∨ n = 15 ∨ 40 < n) : regOf n = none := by
  rcases h with rfl | rfl | h
  · rfl
  · rfl
  · rw [regOf, if_neg (by omega)]
    exact List.getElem?_eq_none (by show 25 ≤ n - 16; omega)

/-- The number registers of full width are carried as they are. -/
theorem numVal_word (v : Word) : numVal v = .num v := by
  rw [numVal, BitVec.setWidth_eq]

/-- The step of a read appends the value read (R38). -/
theorem step_rd {s : State} {n : Nat} {rest : List Access} (hhost : s.host = .rd n :: rest) :
    step s = .next { s with host := rest, reads := s.reads ++ [s.readNum n] } := by
  have hread : ({ s with host := rest } : State).readNum n = s.readNum n := by
    unfold State.readNum
    cases regOf n with
    | none => rfl
    | some r => cases r <;> rfl
  rw [Control.step_of_plain hhost rfl, State.plainAccess, State.returned, hread]

/-- Settles O59: each number names its register, a reserved number none. -/
theorem registerReads : Obligations.RegisterReads := by
  intro s
  have read {n : Nat} (r : Reg) (h : regOf n = some r) := ViewRegisters.readNum_of_regOf s h
  exact ⟨read .ctrl rfl, read .cmd rfl, read .rxlen rfl, read .txlen rfl,
    (read .ckacc rfl).trans (numVal_word _), read .ckres rfl, read .hoplim rfl, read .lmac rfl,
    read .lip rfl, read .lport rfl, read .rmac rfl, read .rip rfl, read .rport rfl,
    fun n hn => readNum_of_regOf_none s (regOf_reserved hn), fun n rest => step_rd⟩

/-- Nothing is written to a read-only register or a reserved number (R13). -/
theorem writeNum_of_readOnly (s : State) {n : Nat} (hn : n ∉ [0, 1, 7, 8, 9, 10, 11, 12, 13])
    (v : RegVal) : s.writeNum n v = s := by
  by_cases hview : 16 ≤ n
  · exact ViewRegisters.writeNum_of_ge s hview v
  · have hcases : n ∈ [2, 3, 4, 5, 6, 14, 15] := by simp at hn ⊢; omega
    fin_cases hcases <;> rfl

/-- The step of a write to a number that nothing can write (R13, R38). -/
theorem step_wr_readOnly {s : State} {n : Nat} {v : RegVal} {rest : List Access}
    (hn : n ∉ [0, 1, 7, 8, 9, 10, 11, 12, 13]) (hhost : s.host = .wr n v :: rest) :
    step s = .next { s with host := rest } := by
  have hcmd : regOf n ≠ some .cmd := fun h => hn (by simp [(regOf_eq_cmd_iff n).1 h])
  rw [Control.step_of_plain hhost (Control.command_wr_of_ne hcmd v), State.plainAccess,
    writeNum_of_readOnly _ hn]

/-- Settles O58: each writable register by its own write, every other number by `step_wr_readOnly`. -/
theorem registerWrites : Obligations.RegisterWrites := by
  intro s v m a rest
  exact ⟨Control.step_wr (r := .hoplim) rfl nofun, Control.step_wr (r := .lmac) rfl nofun,
    Control.step_wr (r := .lip) rfl nofun, Control.step_wr (r := .lport) rfl nofun,
    Control.step_wr (r := .rmac) rfl nofun, Control.step_wr (r := .rip) rfl nofun,
    Control.step_wr (r := .rport) rfl nofun, fun n x hn => step_wr_readOnly hn⟩

/-! ## STATUS (R17 to R20) -/

/-- The word of STATUS as the sum of its fields at their places. -/
theorem toBits_toNat (st : Status) :
    st.toBits.toNat = st.disp.code.toNat + 32 * st.hold.code.toNat +
      128 * (if st.ckok then 1 else 0) + 256 * st.cmderr.code.toNat := by
  have hok : (BitVec.ofBool st.ckok).toNat = if st.ckok then 1 else 0 := by cases st.ckok <;> rfl
  unfold Status.toBits
  rw [append_toNat, append_toNat, append_toNat, append_toNat, hok]
  simp only [BitVec.toNat_ofNat]
  omega

theorem disp_code_le (c : Disp) : c.code.toNat ≤ 15 := by cases c <;> decide

theorem hold_code_le (h : Hold) : h.code.toNat ≤ 2 := by cases h <;> decide

theorem cmdErr_code_le (e : CmdErr) : e.code.toNat ≤ 5 := by cases e <;> decide

/-- Settles O56: the word by its fields, and each code as R18 to R20 list it. -/
theorem statusWordLayout : Obligations.StatusWordLayout := by
  refine ⟨fun s => ⟨?word, disp_code_le _, hold_code_le _, cmdErr_code_le _⟩, by decide, by decide,
    by decide⟩
  exact (ViewRegisters.readNum_of_regOf s (r := .status) rfl).trans
    (ViewRegisters.numVal_eq_of_toNat (toBits_toNat s.status))

/-! ## Buffer bytes (R45, R171) -/

/-- A host write below BUF_SIZE writes its byte, any other nothing. -/
theorem byte_hostSetByte (s : State) (a : Half) (v : Byte) (x : Nat) :
    (s.hostSetByte a v).byte x = if x = a.toNat ∧ a.toNat < s.bufSize then v else s.byte x := by
  unfold State.hostSetByte
  by_cases h : a.toNat < s.bufSize <;> simp [h]

/-- Whatever its offset, a host write changes at most the buffer. -/
theorem hostSetByte_eq (s : State) (a : Half) (v : Byte) :
    s.hostSetByte a v = { s with buf := (s.hostSetByte a v).buf } := by
  unfold State.hostSetByte
  split <;> rfl

/-- Settles O60: the two accesses as plain accesses, the write by the byte it changes. -/
theorem bufferByteAccess : Obligations.BufferByteAccess := by
  intro s a v rest
  refine ⟨fun hhost => ⟨_, Control.step_of_plain hhost rfl, ?_, ?_⟩,
    fun hhost => Control.step_of_plain hhost rfl⟩
  · exact hostSetByte_eq { s with host := rest } a v
  · exact byte_hostSetByte { s with host := rest } a v

/-! ## Reset (R37, R200) -/

/-- Settles O13: every register at its reset value, no buffer byte written. -/
theorem resetValues : Obligations.ResetValues := by
  refine fun p => ⟨?_, ?_, ?_, rfl, fun a => rfl⟩
  all_goals
    simp only [List.forall_mem_cons, List.not_mem_nil, false_imp_iff, implies_true, and_true]
  · have hstatus : (State.resetWith p).readNum 2 = .num 0 :=
      ViewRegisters.numVal_eq_of_toNat (toBits_toNat Status.reset)
    exact ⟨Control.numVal_ctrlBits false, rfl, hstatus, rfl, rfl, rfl, rfl, rfl, rfl, rfl⟩
  · exact ⟨rfl, rfl⟩
  · exact ⟨rfl, rfl⟩

/-- Settles O14: RESET is a plain access. -/
theorem resetEventResets : Obligations.ResetEventResets :=
  fun _ _ hhost => Control.step_of_plain hhost rfl

/-- Settles O12: at reset the buffer and the log are empty, every length is zero and nothing is held. -/
theorem resetHasInvariants : Obligations.ResetHasInvariants := by
  intro p
  constructor
  · exact { bufWf := .nil, bufIn := nofun, rxlenIn := Nat.zero_le _, txlogIn := nofun,
            txlenLast := rfl, ckresOf := .inl ⟨rfl, rfl⟩, holdUdp := nofun, holdNa := nofun }
  · exact { udp := nofun, na := nofun }

end Sys2Proof.Accesses

/-! The checksum unit over the buffer: the raw sum byte by byte (R111, R113, R114), the end-around carry
(R113), what a single changed byte does (R118, law 5) and what verification answers (R117). -/

namespace Sys2Proof.RawSum

open Sys2Proof.Machine

/-! ## The raw sum, byte by byte -/

/-- The word sum of a string given by its bytes. -/
theorem wordSum_eq_sum_range {b : List Byte} {n : Nat} {f : Nat → Byte} (hlen : b.length = n)
    (hb : ∀ i (hi : i < b.length), b[i] = f i) :
    wordSum b = ∑ i ∈ Finset.range n, (f i).toNat * byteWeight i := by
  subst hlen
  rw [ChecksumUnit.wordSum_eq_sum_byteWeight, Finset.sum_range]
  exact Finset.sum_congr rfl fun i _ => by rw [Fin.getElem_fin, hb]

theorem wordSum_memRead (s : State) (a n : Nat) :
    wordSum (s.memRead a n) = ∑ i ∈ Finset.range n, (s.byte (a + i)).toNat * byteWeight i :=
  wordSum_eq_sum_range (s.memRead_length a n) (s.getElem_memRead a n)

/-- The segment's bytes weighed by their position, the checksum field as zero (R111). -/
theorem segSum_eq_sum (s : State) (n ckoff : Nat) :
    s.segSum n ckoff = ∑ i ∈ Finset.range n,
      (if 54 + i = ckoff ∨ 54 + i = ckoff + 1 then 0 else (s.byte (54 + i)).toNat) * byteWeight i := by
  rw [State.segSum, wordSum_eq_sum_range (s.segBytes_length n ckoff) (s.getElem_segBytes n ckoff)]
  refine Finset.sum_congr rfl fun i _ => ?_
  split <;> rfl

/-- The raw sum of a computation: pseudo-header and segment (R111, R114, R116). -/
theorem rawSum_eq_sum (s : State) (u : UpperLayer) (n : Nat) :
    s.rawSum u n =
      ∑ i ∈ Finset.range 16, (s.byte (22 + i)).toNat * byteWeight i +
      ∑ i ∈ Finset.range 16, (s.byte (38 + i)).toNat * byteWeight i + n + u.nh.toNat +
      ∑ i ∈ Finset.range n,
        (if 54 + i = u.ckoff ∨ 54 + i = u.ckoff + 1 then 0 else (s.byte (54 + i)).toNat) *
          byteWeight i := by
  rw [State.rawSum, State.pseudoSum, wordSum_memRead, wordSum_memRead, segSum_eq_sum]

/-- R113: each word of the addresses and of the segment adds at most 0xFFFF. -/
theorem rawSum_le (s : State) (u : UpperLayer) {n : Nat} (hn : 54 + n ≤ s.bufSize) :
    s.rawSum u n ≤ 2148565230 := by
  have hsrc := wordSum_le (s.memRead 22 16)
  have hdst := wordSum_le (s.memRead 38 16)
  have hseg := wordSum_le (s.segBytes n u.ckoff)
  have hnh := u.nh.isLt
  have hbuf := s.bufSize_bounds
  rw [State.memRead_length] at hsrc hdst
  rw [State.segBytes_length] at hseg
  unfold State.rawSum State.pseudoSum State.segSum
  omega

theorem cksum_ckacc_toNat (s : State) (u : UpperLayer) {n : Nat} (hn : n ≤ 65535) :
    (s.cksum u n).ckacc.toNat = s.rawSum u n := by
  rw [State.cksum_ckacc, BitVec.toNat_ofNat, Nat.mod_eq_of_lt (s.rawSum_lt u hn)]

/-- Settles O23: the sum for each upper layer, the bound, and CKACC below 2^32. -/
theorem accumulatorIsExact : Obligations.AccumulatorIsExact := by
  refine ⟨fun s n => rawSum_eq_sum s .icmpv6 n, fun s n => rawSum_eq_sum s .udp n,
    fun s u n hn => ⟨rawSum_le s u hn, cksum_ckacc_toNat s u ?_⟩⟩
  have hbuf := s.bufSize_bounds
  omega

/-! ## The end-around carry (R113) -/

/-- Folding a part first changes nothing. -/
theorem fold_fold_add (a b : Nat) : fold (fold a + b) = fold (a + b) := by
  obtain ⟨-, -, hmod⟩ := fold_spec a
  have hzero := ChecksumUnit.fold_eq_zero_iff a
  by_cases h : a + b = 0
  · have ha : a = 0 := by omega
    subst ha
    rfl
  · rw [fold_eq_fold_iff (by omega) (by omega), Nat.add_mod, hmod, ← Nat.add_mod]

theorem foldl_fold_add (ws : List Nat) (acc : Nat) :
    ws.foldl (fun acc w => fold (acc + w)) (fold acc) = fold (acc + ws.sum) := by
  induction ws generalizing acc with
  | nil => rfl
  | cons w ws ih =>
    rw [List.foldl_cons, fold_fold_add, ih, List.sum_cons, Nat.add_assoc]

/-- Settles O24: the carry added back at once, by induction on the words. -/
theorem endAroundCarryAgrees : Obligations.EndAroundCarryAgrees := by
  intro ws
  have h := foldl_fold_add ws 0
  rwa [Nat.zero_add] at h

/-! ## One changed byte (R118, law 5) -/

theorem memRead_setByte_of_mem (s : State) {a n x : Nat} (v : Byte) (h : a ≤ x ∧ x < a + n) :
    (s.setByte x v).memRead a n = (s.memRead a n).set (x - a) v := by
  apply List.ext_getElem (by simp)
  intro i _ _
  rw [State.getElem_memRead, List.getElem_set, State.getElem_memRead, State.byte_setByte]
  exact if_congr (by omega) rfl rfl

theorem memRead_setByte_of_not_mem (s : State) {a n x : Nat} (v : Byte) (h : ¬ (a ≤ x ∧ x < a + n)) :
    (s.setByte x v).memRead a n = s.memRead a n :=
  State.memRead_congr fun i hi => by rw [State.byte_setByte, if_neg (by omega)]

theorem segBytes_setByte_of_mem (s : State) {n ckoff x : Nat} (v : Byte) (h : 54 ≤ x ∧ x < 54 + n)
    (h0 : x ≠ ckoff) (h1 : x ≠ ckoff + 1) :
    (s.setByte x v).segBytes n ckoff = (s.segBytes n ckoff).set (x - 54) v := by
  apply List.ext_getElem (by simp)
  intro i _ _
  rw [State.getElem_segBytes, List.getElem_set, State.getElem_segBytes, State.byte_setByte]
  by_cases hx : x = 54 + i
  · rw [if_neg (by omega), if_pos hx.symm, if_pos (by omega)]
  · rw [if_neg (c := 54 + i = x) (by omega), if_neg (c := x - 54 = i) (by omega)]

theorem segBytes_setByte_of_lt (s : State) {n ckoff x : Nat} (v : Byte) (h : x < 54) :
    (s.setByte x v).segBytes n ckoff = s.segBytes n ckoff := by
  apply List.ext_getElem (by simp)
  intro i _ _
  rw [State.getElem_segBytes, State.getElem_segBytes, State.byte_setByte,
    if_neg (c := 54 + i = x) (by omega)]

/-- Replacing one summed byte moves the raw sum by the byte's weight times the change. -/
theorem rawSum_setByte (s : State) (u : UpperLayer) {n x : Nat} (v : Byte) (hlo : 22 ≤ x)
    (hhi : x < 54 + n) (h0 : x ≠ u.ckoff) (h1 : x ≠ u.ckoff + 1) :
    ∃ i, (s.setByte x v).rawSum u n + byteWeight i * (s.byte x).toNat =
      s.rawSum u n + byteWeight i * v.toNat := by
  have hread : ∀ a m (hx : a ≤ x ∧ x < a + m), wordSum ((s.setByte x v).memRead a m) +
      byteWeight (x - a) * (s.byte x).toNat =
      wordSum (s.memRead a m) + byteWeight (x - a) * v.toNat := by
    intro a m hx
    have h := wordSum_set (s.memRead a m) (x - a) (by rw [State.memRead_length]; omega) v
    rwa [State.getElem_memRead, Nat.add_sub_cancel' hx.1, ← memRead_setByte_of_mem s v hx] at h
  unfold State.rawSum State.pseudoSum State.segSum
  by_cases hseg : x < 54
  · rw [segBytes_setByte_of_lt s v hseg]
    by_cases hsrc : x < 38
    · rw [memRead_setByte_of_not_mem s (a := 38) v (by omega)]
      have h := hread 22 16 (by omega)
      exact ⟨x - 22, by omega⟩
    · rw [memRead_setByte_of_not_mem s (a := 22) v (by omega)]
      have h := hread 38 16 (by omega)
      exact ⟨x - 38, by omega⟩
  · rw [memRead_setByte_of_not_mem s (a := 22) v (by omega),
      memRead_setByte_of_not_mem s (a := 38) v (by omega),
      segBytes_setByte_of_mem s v (by omega) h0 h1]
    have h := wordSum_set (s.segBytes n u.ckoff) (x - 54) (by rw [State.segBytes_length]; omega) v
    rw [State.getElem_segBytes, Nat.add_sub_cancel' (by omega), if_neg (by omega)] at h
    exact ⟨x - 54, by omega⟩

/-- A weighted change of one byte is never a multiple of 65535. -/
theorem mod_ne_of_byteWeight {r r' i : Nat} {b v : Byte} (hne : v ≠ b)
    (h : r' + byteWeight i * b.toNat = r + byteWeight i * v.toNat) : r' % 65535 ≠ r % 65535 := by
  have hb := b.isLt
  have hv := v.isLt
  have hne' : v.toNat ≠ b.toNat := fun e => hne (BitVec.eq_of_toNat_eq e)
  unfold byteWeight at h
  split at h <;> omega

/-- Settles O25: the raw sums differ modulo 65535, which folding and the fix-up keep apart. -/
theorem singleByteChangeDetected : Obligations.SingleByteChangeDetected := by
  intro s u n a v hlo hhi h0 h1 hne heq
  obtain ⟨i, hi⟩ := rawSum_setByte s u v hlo hhi h0 h1
  have hfinal := congrArg BitVec.toNat heq
  rw [State.cksum_ckres_toNat, State.cksum_ckres_toNat,
    ckfinal_eq_iff (State.rawSum_pos _ _ _) (State.rawSum_pos _ _ _),
    fold_eq_fold_iff (State.rawSum_pos _ _ _) (State.rawSum_pos _ _ _)] at hfinal
  exact mod_ne_of_byteWeight hne hi hfinal

/-! ## Verification (R117) -/

/-- A verification matches exactly when the received field is the recomputed checksum, as numbers. -/
theorem ckok_verify_iff (s : State) (u : UpperLayer) (n : Nat) :
    (s.verify u n).status.ckok = true ↔ (s.be16 u.ckoff).toNat = ckfinal (s.rawSum u n) := by
  rw [State.verify_ckok, ← BitVec.toNat_inj, State.cksum_ckres_toNat]

/-- Settles O26: the comparison is with the recomputed checksum, which is never zero. -/
theorem verifyComparesField : Obligations.VerifyComparesField := by
  refine fun s u n => ⟨rfl, ckok_verify_iff s u n, fun hzero => State.ckok_verify_of_ne ?_⟩
  obtain ⟨-, hne⟩ := ckfinal_spec (s.rawSum u n)
  rw [hzero]
  exact hne.symm

end Sys2Proof.RawSum

/-! The commands that run: the gate (R166), XMIT (R170), the checksum commands (R120, R121) and the two UDP
sends (R156 to R158). -/

namespace Sys2Proof.Commands

open Sys2Proof.Machine Sys2Proof.Refusals

/-! ## The gate and XMIT -/

theorem exec_of_gate {i : Instr} {s : State} {run : State → State} (hen : s.en = true)
    (h : exec i s = .next (s.whenEnabled run)) : exec i s = .next (run s) := by
  rw [h, State.whenEnabled_of_en hen]

theorem exec_of_closed_gate {i : Instr} {s : State} {run : State → State} (hen : s.en = false)
    (h : exec i s = .next (s.whenEnabled run)) :
    exec i s = .next { s with status := { s.status with cmderr := .disabled } } := by
  rw [h, State.whenEnabled_of_not hen]
  rfl

/-- Settles O16: each of the six commands stands behind the gate. -/
theorem disabledRefusesCommands : Obligations.DisabledRefusesCommands := by
  intro s len hen
  simp only [List.forall_mem_cons, List.not_mem_nil, false_imp_iff, implies_true, and_true]
  exact ⟨exec_of_closed_gate hen (exec_poll s), exec_of_closed_gate hen (exec_udpsend len s),
    exec_of_closed_gate hen (exec_udpreply len s), exec_of_closed_gate hen (exec_ckfill s),
    exec_of_closed_gate hen (exec_ckvfy s), exec_of_closed_gate hen (exec_xmit len s)⟩

theorem xmit_of_fits {s : State} {len : Half} (hmin : 14 ≤ len.toNat) (hmax : len.toNat ≤ s.bufSize) :
    s.xmit len = ((s.tx len.toNat).setHold .none).setCmderr .ok :=
  if_neg (by omega)

theorem xmit_of_badLength {s : State} {len : Half} (h : len.toNat < 14 ∨ s.bufSize < len.toNat) :
    s.xmit len = s.refuse .badlen := if_pos h

theorem tx_toNat (s : State) (len : Half) :
    s.tx len.toNat = { s with txlog := s.txlog ++ [s.memRead 0 len.toNat], txlen := len } := by
  rw [State.tx, BitVec.ofNat_toNat, BitVec.setWidth_eq]

/-- Settles O19: the two ends of XMIT. -/
theorem xmitTransmitsAsItStands : Obligations.XmitTransmitsAsItStands := by
  intro s len hen
  have hexec := exec_of_gate hen (exec_xmit len s)
  constructor
  · intro hmin hmax
    rw [hexec, xmit_of_fits hmin hmax, tx_toNat]
    rfl
  · intro hbad
    rw [hexec, xmit_of_badLength hbad]
    rfl

/-! ## CKFILL and CKVFY -/

theorem onSegment_of_checkable {s : State} {u : UpperLayer} (hu : s.checkable = some u)
    (run : UpperLayer → State) : s.onSegment run = (run u).setCmderr .ok := by
  rw [State.onSegment, hu]

theorem onSegment_of_not_checkable {s : State} (hu : s.checkable = none) (run : UpperLayer → State) :
    s.onSegment run = s.refuse .badframe := by
  rw [State.onSegment, hu]

theorem exec_ckfill_of_checkable {s : State} {u : UpperLayer} (hen : s.en = true)
    (hu : s.checkable = some u) :
    exec .ckfill s = .next ((s.fillCksum u s.plen).setCmderr .ok) := by
  rw [exec_of_gate hen (exec_ckfill s), onSegment_of_checkable hu]

theorem exec_ckvfy_of_checkable {s : State} {u : UpperLayer} (hen : s.en = true)
    (hu : s.checkable = some u) :
    exec .ckvfy s = .next ((s.verify u s.plen).setCmderr .ok) := by
  rw [exec_of_gate hen (exec_ckvfy s), onSegment_of_checkable hu]

/-- What CKACC and CKRES show depends on them and on the bytes alone. -/
theorem computed_congr {s t : State} {u : UpperLayer} {n : Nat} (h : Computed s u n)
    (hbyte : ∀ a, t.byte a = s.byte a) (hacc : t.ckacc = s.ckacc) (hres : t.ckres = s.ckres) :
    Computed t u n := by
  unfold Computed at h ⊢
  rwa [State.rawSum_eq_of_byte hbyte, hacc, hres]

/-- A computation that leaves the buffer alone shows the sum of the segment it leaves (R116, R117). -/
theorem computed_verify (s : State) (u : UpperLayer) {n : Nat} (hn : n ≤ 65535) :
    Computed (s.verify u n) u n := by
  have hraw : (s.verify u n).rawSum u n = s.rawSum u n := State.rawSum_eq_of_byte (fun a => by simp) u n
  unfold Computed
  rw [hraw]
  exact ⟨RawSum.cksum_ckacc_toNat s u hn, s.cksum_ckres_toNat u n⟩

/-- Settles O27: the fill stores its own checksum, and the code is written last. -/
theorem ckfillStoresChecksum : Obligations.CkfillStoresChecksum := by
  intro s u hen hfits hnh hmin
  have hplen := s.plen_lt
  refine ⟨_, exec_ckfill_of_checkable hen (State.checkable_eq_some.2 ⟨hfits, hnh, hmin⟩),
    computed_congr (s.computed_fillCksum u (by omega)) (fun a => by simp) (by simp) (by simp),
    s.be16_fillCksum u s.plen, fun a h0 h1 => ?kept, ?status, by simp, by simp, ⟨by simp, by simp⟩,
    ?config⟩
  case kept =>
    rw [State.byte_setCmderr, State.byte_fillCksum]
    exact (if_neg h0).trans (if_neg h1)
  case status => rfl
  case config => constructor <;> simp

/-- Settles O28: the verification's own answer, CKACC and CKRES, and the code written last. -/
theorem ckvfySetsCkok : Obligations.CkvfySetsCkok := by
  intro s u hen hfits hnh hmin
  have hplen := s.plen_lt
  refine ⟨_, exec_ckvfy_of_checkable hen (State.checkable_eq_some.2 ⟨hfits, hnh, hmin⟩),
    computed_congr (computed_verify s u (by omega)) (fun a => by simp) (by simp) (by simp), by simp,
    ?status, by simp, by simp, ⟨by simp, by simp⟩, ?config⟩
  case status =>
    have hckok : (s.verify u s.plen).status.ckok = decide (s.be16 u.ckoff = (s.cksum u s.plen).ckres) :=
      by rw [Bool.eq_iff_iff, State.verify_ckok, decide_eq_true_iff]
    exact congrArg (fun ok => ({ s.status with ckok := ok, cmderr := .ok } : Status)) hckok
  case config => constructor <;> simp

/-- CKVFY on a segment whose field is the checksum that CKACC and CKRES already show: it matches, and both
stay (R118, law 3). -/
theorem exec_ckvfy_of_computed {t : State} {u : UpperLayer} (hen : t.en = true)
    (hu : t.checkable = some u) (hfield : t.be16 u.ckoff = t.ckres) (hcomp : Computed t u t.plen) :
    ∃ r, exec .ckvfy t = .next r ∧ r.status.ckok = true ∧ r.status.cmderr = .ok ∧
      r.ckacc = t.ckacc ∧ r.ckres = t.ckres := by
  obtain ⟨hacc, hres⟩ := hcomp
  have hplen := t.plen_lt
  refine ⟨_, exec_ckvfy_of_checkable hen hu, ?_, rfl, ?_, ?_⟩
  · exact State.ckok_verify_of_eq (by rw [hfield, hres])
  · exact BitVec.eq_of_toNat_eq ((RawSum.cksum_ckacc_toNat t u (by omega)).trans hacc.symm)
  · exact BitVec.eq_of_toNat_eq ((t.cksum_ckres_toNat u t.plen).trans hres.symm)

/-- The fields of R119 lie before the checksum field, so a fill leaves them. -/
theorem checkable_fillCksum (s : State) (u : UpperLayer) (n : Nat) :
    (s.fillCksum u n).plen = s.plen ∧ (s.fillCksum u n).checkable = s.checkable := by
  have hbyte : ∀ a, a < 54 → (s.fillCksum u n).byte a = s.byte a := fun a ha => by
    have hu : 54 ≤ u.ckoff := by cases u <;> decide
    rw [State.byte_fillCksum, if_neg (by omega), if_neg (by omega)]
  have hplen : (s.fillCksum u n).plen = s.plen :=
    congrArg BitVec.toNat (State.be16_congr (hbyte 18 (by omega)) (hbyte 19 (by omega)))
  have hnh : (s.fillCksum u n).nextHeader = s.nextHeader := hbyte 20 (by omega)
  refine ⟨hplen, ?_⟩
  simp only [State.checkable, hplen, hnh, State.bufSize, State.fillCksum_params]

/-- Settles O29: a CKFILL that ran leaves a segment whose field is the checksum shown. -/
theorem ckfillThenCkvfyMatches : Obligations.CkfillThenCkvfyMatches := by
  intro s t hen hfill hok
  have hplen := s.plen_lt
  cases hu : s.checkable with
  | none =>
    rw [exec_of_gate hen (exec_ckfill s), onSegment_of_not_checkable hu] at hfill
    cases hfill
    cases hok
  | some u =>
    cases (exec_ckfill_of_checkable hen hu).symm.trans hfill
    obtain ⟨hplen', hcheck⟩ := checkable_fillCksum s u s.plen
    have hcomp : Computed (s.fillCksum u s.plen) u (s.fillCksum u s.plen).plen := by
      rw [hplen']
      exact s.computed_fillCksum u (by omega)
    obtain ⟨r, hr, hckok, -, hacc, hres⟩ :=
      exec_ckvfy_of_computed (t := (s.fillCksum u s.plen).setCmderr .ok) hen (hcheck.trans hu)
        (s.be16_fillCksum u s.plen) hcomp
    exact ⟨r, hr, hckok, hacc, hres⟩

/-! ## The two sends -/

theorem sameConfig_trans {s t r : State} (h : SameConfig s t) (h' : SameConfig t r) :
    SameConfig s r :=
  ⟨h'.en.trans h.en, h'.hoplim.trans h.hoplim, h'.lmac.trans h.lmac, h'.lip.trans h.lip,
    h'.lport.trans h.lport, h'.rmac.trans h.rmac, h'.rip.trans h.rip, h'.rport.trans h.rport,
    h'.params.trans h.params, h'.epoch.trans h.epoch, h'.host.trans h.host, h'.reads.trans h.reads⟩

/-- `p` is `s` with a frame's addresses, EtherType, version and hop limit written (R133, R156): what both
builders of a UDP header start from. -/
structure Prepared (s p : State) (dmac src dst : List Byte) : Prop where
  rest : ∃ m, p = { s with buf := m }
  ethDst : p.memRead 0 6 = dmac
  ethSrc : p.memRead 6 6 = s.lmac.toList
  ethType : p.be16 12 = 0x86DD
  vtf : p.memRead 14 4 = [0x60, 0x00, 0x00, 0x00]
  hopLimit : p.byte 21 = s.hoplim
  ipSrc : p.memRead 22 16 = src
  ipDst : p.memRead 38 16 = dst
  kept : ∀ a, 54 ≤ a ∨ 18 ≤ a ∧ a < 21 → p.byte a = s.byte a

theorem prepared_prepareSend (s : State) :
    Prepared s s.prepareSend s.rmac.toList s.lip.toList s.rip.toList := by
  obtain ⟨h0, h1, h2, h3, h4, h5, h6, h7⟩ := s.prepareSend_spec
  exact ⟨⟨_, rfl⟩, h0, h1, h2, h3, h4, h5, h6, h7⟩

theorem prepared_prepareReply (s : State) :
    Prepared s (s.prepareReply s.lip.toList) (s.memRead 6 6) s.lip.toList (s.memRead 22 16) := by
  obtain ⟨h0, h1, h2, h3, h4, h5, h6, h7⟩ := s.prepareReply_spec (ip := s.lip.toList) (by simp)
  exact ⟨⟨_, rfl⟩, h0, h1, h2, h3, h4, h5, h6, h7⟩

/-- `t` is what a send of LEN bytes makes of `s` (R156, R158): the datagram to the given MAC, address and
port built from LMAC, LIP and LPORT, its checksum filled and shown, the frame transmitted. -/
structure Sent (s t : State) (len : Half) (dmac dst : List Byte) (dport : Half) : Prop where
  header : OriginatedHeader t dmac (len.toNat + 8) 17 s.lip.toList dst
  srcPort : t.be16 54 = s.lport
  dstPort : t.be16 56 = dport
  udpLen : (t.be16 58).toNat = len.toNat + 8
  field : t.be16 60 = t.ckres
  above : ∀ a, 62 ≤ a → t.byte a = s.byte a
  computed : Computed t .udp (len.toNat + 8)
  transmitted : Transmitted s t (62 + len.toNat)
  status : t.status = { s.status with hold := .none, cmderr := .ok }
  rxlen : t.rxlen = s.rxlen
  rx : t.rx = s.rx
  config : SameConfig s t

/-- A length that a send accepts does not wrap when the UDP header is added. -/
theorem add_eight_toNat {s : State} {len : Half} (hlen : len.toNat ≤ s.bufSize - 62) :
    (len + 8).toNat = len.toNat + 8 := by
  have hbuf := s.bufSize_bounds
  rw [BitVec.toNat_add]
  exact Nat.mod_eq_of_lt (by show len.toNat + 8 < 65536; omega)

/-- Over prepared headers, the shared fields and the shared end make a sent datagram. -/
theorem Prepared.sent {s p : State} {dmac dst : List Byte} {len : Half}
    (hp : Prepared s p dmac s.lip.toList dst) (hlen : len.toNat ≤ s.bufSize - 62) (dport : Half) :
    Sent s ((p.buildUdp len s.lport dport).udpFinish len) len dmac dst dport := by
  have hbuf := s.bufSize_bounds
  have hlen8 := add_eight_toNat hlen
  obtain ⟨⟨m, hm⟩, ethDst, ethSrc, ethType, vtf, hopLimit, ipSrc, ipDst, kept⟩ := hp
  obtain ⟨plenField, nextHeader, srcPort, dstPort, udpLen, hbuild⟩ :=
    p.buildUdp_spec len s.lport dport
  have hfits : len.toNat + 62 ≤ (p.buildUdp len s.lport dport).bufSize := by
    show len.toNat + 62 ≤ p.bufSize
    rw [hm]
    show len.toNat + 62 ≤ s.bufSize
    omega
  obtain ⟨hbyte, field, computed, ⟨txlog, txlen⟩, config⟩ := State.udpFinish_spec _ hfits
  set t := (p.buildUdp len s.lport dport).udpFinish len with ht
  have hconfig : SameConfig s t :=
    sameConfig_trans (by rw [hm]; constructor <;> rfl) config
  have hword : ∀ a, a + 1 < 60 → t.be16 a = (p.buildUdp len s.lport dport).be16 a := fun a ha =>
    State.be16_congr (hbyte _ (by omega) (by omega)) (hbyte _ (by omega) (by omega))
  exact {
    header := by
      refine .of_prepared ethDst (by rw [ethSrc, hconfig.lmac]) ethType vtf
        (by rw [hopLimit, hconfig.hoplim]) ipSrc ipDst ?_ ?_ fun a ha => ?_
      · rw [hword 18 (by omega), plenField, hlen8]
      · rw [hbyte 20 (by omega) (by omega), nextHeader]
      · rw [hbyte a (by omega) (by omega), hbuild a (by omega)]
    srcPort := by rw [hword 54 (by omega), srcPort]
    dstPort := by rw [hword 56 (by omega), dstPort]
    udpLen := by rw [hword 58 (by omega), udpLen, hlen8]
    field := field
    above := fun a ha => by
      rw [hbyte a (by omega) (by omega), hbuild a (by omega), kept a (by omega)]
    computed := computed
    transmitted := ⟨by rw [txlog, State.buildUdp_txlog, hm], txlen⟩
    status := by rw [ht, State.udpFinish_status, State.buildUdp_status, hm]
    rxlen := by rw [ht, State.udpFinish_rxlen, State.buildUdp_rxlen, hm]
    rx := by rw [ht, State.udpFinish_rx, State.buildUdp_rx, hm]
    config := hconfig }

/-- UDPSEND with a length that fits (R156). -/
theorem sent_udpsend {s : State} {len : Half} (hlen : len.toNat ≤ s.bufSize - 62) :
    Sent s (s.udpsend len) len s.rmac.toList s.rip.toList s.rport := by
  rw [State.udpsend, if_neg (by omega)]
  exact (prepared_prepareSend s).sent hlen s.rport

/-- UDPREPLY to a held datagram with a length that fits (R158). -/
theorem sent_udpreply {s : State} {len : Half} (hhold : s.status.hold = .udp)
    (hlen : len.toNat ≤ s.bufSize - 62) :
    Sent s (s.udpreply len) len (s.memRead 6 6) (s.memRead 22 16) (s.be16 54) := by
  rw [State.udpreply, if_neg (not_not.mpr hhold), if_neg (by omega)]
  exact (prepared_prepareReply s).sent hlen (s.be16 54)

/-- Settles O30: the fields of a sent datagram. -/
theorem udpsendBuildsDatagram : Obligations.UdpsendBuildsDatagram := by
  intro s len hen hlen
  have h := sent_udpsend hlen
  exact ⟨_, exec_of_gate hen (exec_udpsend len s), h.header, h.srcPort, h.dstPort, h.udpLen, h.field,
    h.above, h.computed, h.transmitted, h.status, h.rxlen, h.rx, h.config⟩

/-- Settles O31: the fields of a datagram sent to the held frame's sender. -/
theorem udpreplyAnswersSender : Obligations.UdpreplyAnswersSender := by
  intro s len hen hhold hlen
  have h := sent_udpreply hhold hlen
  exact ⟨_, exec_of_gate hen (exec_udpreply len s), h.header, h.srcPort, h.dstPort, h.udpLen, h.field,
    h.above, h.computed, h.transmitted, h.status, h.rxlen, h.rx, h.config⟩

/-- A send or reply is refused with a code alone, or it sends a datagram whose length fits. -/
theorem refused_or_sent {s t : State} {i : Instr} {len : Half} (hi : i = .udpsend len ∨ i = .udpreply len)
    (h : exec i s = .next t) :
    (∃ e, e ≠ .ok ∧ t = s.refuse e) ∨
      (len.toNat ≤ s.bufSize - 62 ∧ ∃ dmac dst dport, Sent s t len dmac dst dport) := by
  by_cases hen : s.en = true
  swap
  · have hgate : t = s.refuse .disabled := by
      rcases hi with rfl | rfl <;> cases h <;> exact State.whenEnabled_of_not (by simpa using hen) _
    exact .inl ⟨.disabled, nofun, hgate⟩
  by_cases hlen : len.toNat ≤ s.bufSize - 62
  swap
  · rcases hi with rfl | rfl
    · cases (exec_of_gate hen (exec_udpsend len s)).symm.trans h
      exact .inl ⟨.badlen, nofun, if_pos (by omega)⟩
    · cases (exec_of_gate hen (exec_udpreply len s)).symm.trans h
      unfold State.udpreply
      split
      · exact .inl ⟨.noctx, nofun, rfl⟩
      · exact .inl ⟨.badlen, nofun, if_pos (by omega)⟩
  rcases hi with rfl | rfl
  · cases (exec_of_gate hen (exec_udpsend len s)).symm.trans h
    exact .inr ⟨hlen, _, _, _, sent_udpsend hlen⟩
  · cases (exec_of_gate hen (exec_udpreply len s)).symm.trans h
    by_cases hhold : s.status.hold = .udp
    · exact .inr ⟨hlen, _, _, _, sent_udpreply hhold hlen⟩
    · exact .inl ⟨.noctx, nofun, if_pos hhold⟩

/-- Settles O32: what was sent left HOLD at NONE, and UDPREPLY looks at HOLD first. -/
theorem secondReplyHasNoContext : Obligations.SecondReplyHasNoContext := by
  intro s t len len' i hi hen h hok
  rcases refused_or_sent hi.symm h with ⟨e, hne, rfl⟩ | ⟨-, _, _, _, hsent⟩
  · exact absurd hok hne
  · have hhold : t.status.hold ≠ .udp := by simp [hsent.status]
    rw [exec_of_gate (hsent.config.en.trans hen) (exec_udpreply len' t), State.udpreply, if_pos hhold]
    rfl

end Sys2Proof.Commands

/-! POLL and the frame classes: POLL without a frame or with an oversize one (R80), R89's procedure as the
class's meaning (R55, R70), and each class's ends (R81 to R88, R130 to R140, R150 to R154). -/

namespace Sys2Proof.FrameClasses

open Sys2Proof.Machine Sys2Proof.Commands

/-! ## POLL around the frame (R80) -/

theorem nextFrame_eq_none {s : State}
    (h : s.rx.head? = none ∨ s.rx.head? = some none ∨ s.rx.head? = some (some [])) :
    s.nextFrame = none := by
  unfold State.nextFrame
  split
  · next b f rest hrx => simp [hrx] at h
  · rfl

/-- Settles O34: the three answers that count as none. -/
theorem pollWithoutFrame : Obligations.PollWithoutFrame := by
  intro s hen hnone
  rw [exec_of_gate hen (Refusals.exec_poll s), State.poll, nextFrame_eq_none hnone]
  rfl

/-- Settles O35: an oversize frame has bytes, so NI's answer is a frame, and the size test comes first. -/
theorem oversizeFrameIsLost : Obligations.OversizeFrameIsLost := by
  intro s f rest hen hrx hsize
  rw [State.exec_poll_of_frame hen hrx (List.ne_nil_of_length_pos (by omega))]
  exact congrArg _ (State.receive_of_oversize (s := { s with rx := rest }) hsize State.parse)

theorem sameConfig_noload (s : State) (c : Disp) :
    SameConfig s ((s.dropAnswer.setCmderr .ok).setDisp c) := by
  constructor <;> rfl

theorem sameConfig_received {s r : State} {f : Frame}
    (h : ParseResult ((s.dropAnswer.setCmderr .ok).load f) f.length r) : SameConfig s r := by
  have hload : SameConfig s ((s.dropAnswer.setCmderr .ok).load f) := by constructor <;> rfl
  exact sameConfig_trans hload h.config

/-- POLL leaves what only the host or a reset configures (R38, R211). -/
theorem sameConfig_poll (s : State) : SameConfig s s.poll := by
  rcases s.poll_cases with ⟨-, h⟩ | ⟨f, -, -, h⟩ | ⟨f, -, -, -, h⟩
  · exact h ▸ sameConfig_noload s _
  · exact h ▸ sameConfig_noload s _
  · exact sameConfig_received h

/-- An enabled POLL takes exactly one answer (R80). -/
theorem poll_rx (s : State) : s.poll.rx = s.rx.tail := by
  rcases s.poll_cases with ⟨-, h⟩ | ⟨f, -, -, h⟩ | ⟨f, -, -, -, h⟩
  · simp [h]
  · simp [h]
  · rw [h.rx, State.load_rx, State.setCmderr_rx, State.dropAnswer_rx]

/-- Settles O36: every end of POLL. -/
theorem pollAlwaysEndsOk : Obligations.PollAlwaysEndsOk :=
  fun s hen => ⟨_, exec_of_gate hen (Refusals.exec_poll s), Refusals.cmderr_poll s, poll_rx s,
    sameConfig_poll s⟩

/-! ## The handlers, test by test -/

theorem ns_of_short {l : State} {n : Nat} (h : n < 24) : l.ns n = l.drop .dropUlShort := if_pos h

theorem ns_of_otherTarget {l : State} {n : Nat} (h : 24 ≤ n) (ht : l.ndTarget ≠ l.lip.toList) :
    l.ns n = l.ignore .ignNsTarget := by
  rw [State.ns, if_neg (by omega), if_pos ht]

theorem ns_of_target {l : State} {n : Nat} (h : 24 ≤ n) (ht : l.ndTarget = l.lip.toList) :
    l.ns n = l.nsReply := by
  rw [State.ns, if_neg (by omega), if_neg (not_not.mpr ht)]

theorem na_of_short {l : State} {n : Nat} (h : n < 24) : l.na n = l.drop .dropUlShort := if_pos h

theorem na_of_target {l : State} {n : Nat} (h : 24 ≤ n) :
    l.na n = (l.setHold .na).setDisp .deliveredNa := if_neg (by omega)

theorem udp_of_short {l : State} {n : Nat} (h : n < 8) : l.udp n = l.drop .dropUlShort := if_pos h

theorem udp_of_otherLength {l : State} {n : Nat} (h : 8 ≤ n) (hl : (l.be16 58).toNat ≠ n) :
    l.udp n = l.drop .dropUdpLen := by
  rw [State.udp, if_neg (by omega), if_pos hl]

theorem udp_of_mismatch {l : State} {n : Nat} (h : 8 ≤ n) (hl : (l.be16 58).toNat = n)
    (hv : (l.verify .udp n).status.ckok = false) :
    l.udp n = (l.verify .udp n).drop .dropCksum := by
  rw [State.udp, if_neg (by omega), if_neg (not_not.mpr hl), if_pos hv]

theorem udp_of_match {l : State} {n : Nat} (h : 8 ≤ n) (hl : (l.be16 58).toNat = n)
    (hv : (l.verify .udp n).status.ckok = true) :
    l.udp n = ((l.verify .udp n).setHold .udp).setDisp .deliveredUdp := by
  rw [State.udp, if_neg (by omega), if_neg (not_not.mpr hl), if_neg (by simp [hv])]

/-! ## The class's meaning and R89's procedure -/

/-- What the meaning of a frame class does with the loaded frame and its length. -/
def classHandler : FrameClass → State → Nat → State
  | .short => fun l _ => l.drop .dropShort
  | .notIpv6 => fun l _ => l.drop .dropEthertype
  | .badVersion => fun l _ => l.drop .dropVersion
  | .ns => fun l n => l.accepted n fun l plen => l.icmpChecked plen fun l => l.ns plen
  | .na => fun l n => l.accepted n fun l plen => l.icmpChecked plen fun l => l.na plen
  | .echoReq => fun l n => l.accepted n fun l plen => l.icmpChecked plen fun l => l.echo plen
  | .icmpOther => fun l n => l.accepted n fun l plen => l.icmpChecked plen fun l => l.ignore .ignIcmpType
  | .udp => fun l n => l.accepted n fun l plen => l.udp plen
  | .otherNh => fun l n => l.accepted n fun l _ => l.ignore .ignNh

/-- The meaning of a frame class is its handler on the received frame. -/
theorem exec_instr (c : FrameClass) (f : Frame) (s : State) :
    exec (c.instr f) s = .next (s.receive f (classHandler c)) := by
  cases c <;> rfl

theorem byte_load_eq_frameByte (s : State) {f : Frame} {x : Nat} (hx : x < f.length) :
    (s.load f).byte x = frameByte f x := by
  rw [State.byte_load, dif_pos hx, frameByte, List.getD_eq_getElem _ _ hx]

/-- Past the version test the length check and the dispatch follow (R84, R86). -/
theorem parse_of_version6 {l : State} {n : Nat} (hlen : 54 ≤ n) (htype : l.etherType = 0x86DD)
    (hver : l.ipVersion = 6) : l.parse n = l.accepted n State.dispatch := by
  rw [State.parse, if_neg (by omega), if_neg (not_not.mpr htype), if_neg (not_not.mpr hver)]

/-- Two continuations that agree on an accepted frame. -/
theorem accepted_congr {l : State} {n : Nat} (k k' : State → Nat → State)
    (h : 54 + l.plen ≤ n → k l l.plen = k' l l.plen) : l.accepted n k = l.accepted n k' := by
  by_cases hlen : 54 + l.plen ≤ n
  · rw [State.accepted_of_le hlen, State.accepted_of_le hlen, h hlen]
  · rw [State.accepted_of_lt (by omega), State.accepted_of_lt (by omega)]

/-- Two continuations that agree on a message that passes the entry. -/
theorem icmpChecked_congr {l : State} {n : Nat} (k k' : State → State)
    (h : 4 ≤ n → k (l.verify .icmpv6 n) = k' (l.verify .icmpv6 n)) :
    l.icmpChecked n k = l.icmpChecked n k' := by
  by_cases hn : 4 ≤ n
  · cases hv : (l.verify .icmpv6 n).status.ckok with
    | false => rw [State.icmpChecked_of_mismatch hn hv, State.icmpChecked_of_mismatch hn hv]
    | true => rw [State.icmpChecked_of_match hn hv, State.icmpChecked_of_match hn hv, h hn]
  · rw [State.icmpChecked_of_short (by omega), State.icmpChecked_of_short (by omega)]

/-- The type dispatch of an accepted ICMPv6 frame is `k` where it is `k` on a message with a type byte: the
entry drops a message without one (R131). -/
theorem accepted_dispatch_of_icmpv6 {l : State} {n : Nat} (hnh : l.nextHeader = 58)
    (k : Nat → State → State)
    (h : 4 ≤ l.plen → 54 + l.plen ≤ n →
      (l.verify .icmpv6 l.plen).icmpDispatch l.plen = k l.plen (l.verify .icmpv6 l.plen)) :
    l.accepted n State.dispatch = l.accepted n fun l plen => l.icmpChecked plen (k plen) :=
  accepted_congr _ (fun l plen => l.icmpChecked plen (k plen)) fun hlen =>
    (if_pos hnh).trans (icmpChecked_congr _ (k l.plen) fun hmin => h hmin hlen)

/-- The four ICMPv6 classes by the type byte of the frame (R70, R130). -/
def icmpClass (f : Frame) : FrameClass :=
  if frameByte f 54 = 135 then .ns
  else if frameByte f 54 = 136 then .na
  else if frameByte f 54 = 128 then .echoReq
  else .icmpOther

/-- The type dispatch on a loaded ICMPv6 frame is the handler of its class. -/
theorem accepted_dispatch_eq_classHandler {l : State} {f : Frame}
    (hbyte : ∀ x, x < f.length → l.byte x = frameByte f x) (hnh : l.nextHeader = 58) :
    l.accepted f.length State.dispatch = classHandler (icmpClass f) l f.length := by
  have htype : 4 ≤ l.plen → 54 + l.plen ≤ f.length →
      (l.verify .icmpv6 l.plen).icmpType = frameByte f 54 := fun _ _ => hbyte 54 (by omega)
  unfold icmpClass
  split_ifs with h135 h136 h128
  · exact accepted_dispatch_of_icmpv6 hnh (fun plen l => l.ns plen) fun hmin hlen => by
      rw [State.icmpDispatch, htype hmin hlen, if_pos h135]
  · exact accepted_dispatch_of_icmpv6 hnh (fun plen l => l.na plen) fun hmin hlen => by
      rw [State.icmpDispatch, htype hmin hlen, if_neg h135, if_pos h136]
  · exact accepted_dispatch_of_icmpv6 hnh (fun plen l => l.echo plen) fun hmin hlen => by
      rw [State.icmpDispatch, htype hmin hlen, if_neg h135, if_neg h136, if_pos h128]
  · exact accepted_dispatch_of_icmpv6 hnh (fun _ l => l.ignore .ignIcmpType) fun hmin hlen => by
      rw [State.icmpDispatch, htype hmin hlen, if_neg h135, if_neg h136, if_neg h128]

/-- R89's procedure over the loaded buffer is the handler of the frame's class (R55, R70). -/
theorem parse_load (s : State) (f : Frame) :
    (s.load f).parse f.length = classHandler (frameClass f) (s.load f) f.length := by
  have hbyte : ∀ x, x < f.length → (s.load f).byte x = frameByte f x :=
    fun _ => byte_load_eq_frameByte s
  by_cases hlen : f.length < 54
  · have hclass : frameClass f = .short := if_pos hlen
    rw [HeaderTests.parse_of_short hlen, hclass, classHandler]
  have htype : (s.load f).etherType = 0x86DD ↔ frameByte f 12 = 0x86 ∧ frameByte f 13 = 0xDD := by
    rw [HeaderTests.etherType_eq_iff, hbyte 12 (by omega), hbyte 13 (by omega)]
  have hver : (s.load f).ipVersion = (frameByte f 14).extractLsb' 4 4 := by
    rw [State.ipVersion, hbyte 14 (by omega)]
  have hnh : (s.load f).nextHeader = frameByte f 20 := hbyte 20 (by omega)
  by_cases h1 : (s.load f).etherType = 0x86DD
  swap
  · have hclass : frameClass f = .notIpv6 := by
      rw [frameClass, if_neg hlen, if_pos (mt htype.2 h1)]
    rw [HeaderTests.parse_of_otherEthertype (by omega) h1, hclass, classHandler]
  by_cases h2 : (s.load f).ipVersion = 6
  swap
  · have hclass : frameClass f = .badVersion := by
      rw [frameClass, if_neg hlen, if_neg (not_not.mpr (htype.1 h1)), if_pos (hver ▸ h2)]
    rw [HeaderTests.parse_of_otherVersion (by omega) h1 h2, hclass, classHandler]
  have hclass : frameClass f = if frameByte f 20 = 58 then icmpClass f
      else if frameByte f 20 = 17 then .udp else .otherNh := by
    rw [frameClass, if_neg hlen, if_neg (not_not.mpr (htype.1 h1)), if_neg (not_not.mpr (hver ▸ h2)),
      icmpClass]
  rw [parse_of_version6 (by omega) h1 h2, hclass]
  split_ifs with h58 h17
  · exact accepted_dispatch_eq_classHandler hbyte (hnh.trans h58)
  · exact accepted_congr _ State.udp fun _ => by
      rw [State.dispatch, hnh, if_neg h58, if_pos h17]
  · exact accepted_congr _ (fun l _ => l.ignore .ignNh) fun _ => by
      rw [State.dispatch, hnh, if_neg h58, if_neg h17]

/-- Receiving a frame: loaded and parsed, or handled as its class, or lost as oversize. -/
theorem receive_parse (s : State) (f : Frame) :
    s.receive f State.parse = s.receive f (classHandler (frameClass f)) := by
  by_cases hfits : f.length ≤ s.bufSize
  · rw [State.receive_of_fits hfits, State.receive_of_fits hfits, parse_load]
  · rw [State.receive_of_oversize (by omega), State.receive_of_oversize (by omega)]

/-- An enabled POLL does what the class of NI's frame means. -/
theorem exec_poll_eq_exec_instr {s : State} {f : Frame} {rest : List (Option Frame)} (hen : s.en = true)
    (hrx : s.rx = some f :: rest) (hf : f ≠ []) :
    exec .poll s = exec ((frameClass f).instr f) { s with rx := rest } := by
  rw [State.exec_poll_of_frame hen hrx hf, receive_parse, exec_instr]

/-- Settles O8: the decoded instruction is the one of the frame's class, whose meaning POLL's procedure is. -/
theorem pollRunsTheFrameClass : Obligations.PollRunsTheFrameClass := by
  intro s f rest i hen hrx hdec
  by_cases hf : f = []
  · subst hf
    cases hdec
  · cases (RoundTrip.decodeFrame_of_ne_nil hf).symm.trans hdec
    exact exec_poll_eq_exec_instr hen hrx hf

end Sys2Proof.FrameClasses

/-! How each frame class ends: dropped, ignored or delivered with nothing transmitted (R81 to R88, R131, R132,
R134, R135, R138, R140, R151 to R154), or answered (R136, R139). -/

namespace Sys2Proof.FrameEnds

open Sys2Proof.Machine Sys2Proof.Commands Sys2Proof.FrameClasses

/-! ## The shape of an end that transmits nothing -/

theorem exists_notComputed {i : Instr} {s : State} {f : Frame} {c : Disp}
    (hfits : f.length ≤ s.bufSize)
    (h : exec i s = .next (s.received f ⟨c, .none, s.status.ckok, .ok⟩ s.ckacc s.ckres)) :
    ∃ t, exec i s = .next t ∧ ReceivedOnly s t f ∧ t.status = ⟨c, .none, s.status.ckok, .ok⟩ ∧
      NotComputed s t :=
  ⟨_, h, State.receivedOnly hfits rfl _ _, rfl, rfl, rfl⟩

theorem exists_computed {i : Instr} {s : State} {f : Frame} {u : UpperLayer} {st : Status}
    (hfits : f.length ≤ s.bufSize) (hok : st.cmderr = .ok)
    (h : exec i s = .next (s.receivedComputed f u st)) :
    ∃ t, exec i s = .next t ∧ ReceivedOnly s t f ∧ t.status = st ∧ Computed t u (s.load f).plen :=
  ⟨_, h, State.receivedOnly hfits hok _ _, rfl, State.computed_receivedComputed s f u st⟩

/-! ## The header tests and the length check -/

/-- A frame that fits and passes the length check goes on with its PLEN (R84). -/
theorem exec_of_accepted {i : Instr} {s : State} {f : Frame} {k : State → Nat → State}
    (hi : exec i s = .next (s.receive f fun l n => l.accepted n k)) (hfits : f.length ≤ s.bufSize)
    (hlen : 54 + (s.load f).plen ≤ f.length) :
    exec i s = .next (k ((s.setCmderr .ok).load f) (s.load f).plen) := by
  rw [hi, State.receive_of_fits hfits]
  exact congrArg _ (State.accepted_of_le hlen)

/-- One that fits and fails it is dropped, the payload not looked at (R84). -/
theorem exec_of_not_accepted {i : Instr} {s : State} {f : Frame} {k : State → Nat → State}
    (hi : exec i s = .next (s.receive f fun l n => l.accepted n k)) (hfits : f.length ≤ s.bufSize)
    (hlen : f.length < 54 + (s.load f).plen) :
    exec i s = .next (s.received f ⟨.dropLength, .none, s.status.ckok, .ok⟩ s.ckacc s.ckres) := by
  rw [hi, State.receive_of_fits hfits]
  exact congrArg _ (State.accepted_of_lt hlen)

/-- Settles O38: three classes end at the load, F_OTHER_NH after the length check. -/
theorem headerClassesComplete : Obligations.HeaderClassesComplete := by
  intro s f hfits i c h
  refine exists_notComputed hfits ?_
  rcases h with ⟨rfl, rfl⟩ | ⟨rfl, rfl⟩ | ⟨rfl, rfl⟩ | ⟨rfl, hlen, rfl⟩
  · exact (exec_instr .short f s).trans (congrArg _ (State.receive_of_fits hfits _))
  · exact (exec_instr .notIpv6 f s).trans (congrArg _ (State.receive_of_fits hfits _))
  · exact (exec_instr .badVersion f s).trans (congrArg _ (State.receive_of_fits hfits _))
  · exact exec_of_accepted (k := fun l _ => l.ignore .ignNh) rfl hfits hlen

/-- The meaning of an ICMPv6 class: the length check, the entry, then the handler `k`. -/
def IsIcmpClass (i : Instr) (f : Frame) (k : Nat → State → State) : Prop :=
  ∀ s, exec i s = .next (s.receive f fun l n => l.accepted n fun l plen => l.icmpChecked plen (k plen))

theorem isIcmpClass_fNs (f : Frame) : IsIcmpClass (.fNs f) f fun plen l => l.ns plen := fun _ => rfl

theorem isIcmpClass_fNa (f : Frame) : IsIcmpClass (.fNa f) f fun plen l => l.na plen := fun _ => rfl

theorem isIcmpClass_fEchoReq (f : Frame) : IsIcmpClass (.fEchoReq f) f fun plen l => l.echo plen :=
  fun _ => rfl

theorem isIcmpClass_fIcmpOther (f : Frame) :
    IsIcmpClass (.fIcmpOther f) f fun _ l => l.ignore .ignIcmpType := fun _ => rfl

/-- Settles O39: all six classes begin with the length check. -/
theorem lengthCheckDrops : Obligations.LengthCheckDrops := by
  intro s f hfits hlen
  have hdrop : ∀ (i : Instr) (k : State → Nat → State),
      exec i s = .next (s.receive f fun l n => l.accepted n k) →
      ∃ t, exec i s = .next t ∧ ReceivedOnly s t f ∧
        t.status = ⟨.dropLength, .none, s.status.ckok, .ok⟩ ∧ NotComputed s t :=
    fun i k hi => exists_notComputed hfits (exec_of_not_accepted hi hfits hlen)
  have hicmp : ∀ (i : Instr) (k : Nat → State → State), IsIcmpClass i f k → _ :=
    fun i k hi => hdrop i (fun l plen => l.icmpChecked plen (k plen)) (hi s)
  simp only [List.forall_mem_cons, List.not_mem_nil, false_imp_iff, implies_true, and_true]
  exact ⟨hicmp _ _ (isIcmpClass_fNs f), hicmp _ _ (isIcmpClass_fNa f),
    hicmp _ _ (isIcmpClass_fEchoReq f), hicmp _ _ (isIcmpClass_fIcmpOther f),
    hdrop _ State.udp rfl, hdrop _ (fun l _ => l.ignore .ignNh) rfl⟩

/-! ## The entry of the ICMPv6 classes (R131, R132) -/

/-- The received message verifies: its field is the checksum of its segment (R117). -/
abbrev Verifies (l : State) (u : UpperLayer) : Prop :=
  (l.be16 u.ckoff).toNat = ckfinal (l.rawSum u l.plen)

/-- A loaded message whose checksum does not verify, dropped (R132, R153). -/
theorem verify_load_drop {s : State} {f : Frame} {u : UpperLayer} (h : ¬ Verifies (s.load f) u) :
    (((s.setCmderr .ok).load f).verify u (s.load f).plen).drop .dropCksum =
      s.receivedComputed f u ⟨.dropCksum, .none, false, .ok⟩ := by
  rw [State.verify_load, State.ckok_verify_of_ne h]
  rfl

theorem icmpChecked_load_of_short {s : State} {f : Frame} (h : (s.load f).plen < 4)
    (k : State → State) :
    ((s.setCmderr .ok).load f).icmpChecked (s.load f).plen k =
      s.received f ⟨.dropUlShort, .none, s.status.ckok, .ok⟩ s.ckacc s.ckres :=
  State.icmpChecked_of_short h

theorem icmpChecked_load_of_mismatch {s : State} {f : Frame} (h : 4 ≤ (s.load f).plen)
    (hc : ¬ Verifies (s.load f) .icmpv6) (k : State → State) :
    ((s.setCmderr .ok).load f).icmpChecked (s.load f).plen k =
      s.receivedComputed f .icmpv6 ⟨.dropCksum, .none, false, .ok⟩ := by
  have hload := State.verify_load s f .icmpv6
  rw [State.ckok_verify_of_ne hc] at hload
  rw [State.icmpChecked_of_mismatch h (by rw [hload]; rfl), verify_load_drop hc]

section Icmp

variable {s : State} {f : Frame} {i : Instr} {k : Nat → State → State}

/-- Too short for the common header: dropped uncomputed (R131). -/
theorem IsIcmpClass.short (hi : IsIcmpClass i f k) (hfits : f.length ≤ s.bufSize)
    (hlen : 54 + (s.load f).plen ≤ f.length) (hshort : (s.load f).plen < 4) :
    ∃ t, exec i s = .next t ∧ ReceivedOnly s t f ∧
      t.status = ⟨.dropUlShort, .none, s.status.ckok, .ok⟩ ∧ NotComputed s t :=
  exists_notComputed hfits <| (exec_of_accepted (hi s) hfits hlen).trans <|
    congrArg _ (icmpChecked_load_of_short hshort _)

/-- A checksum that does not verify: computed and dropped (R132). -/
theorem IsIcmpClass.mismatch (hi : IsIcmpClass i f k) (hfits : f.length ≤ s.bufSize)
    (hlen : 54 + (s.load f).plen ≤ f.length) (hmin : 4 ≤ (s.load f).plen)
    (hv : ¬ Verifies (s.load f) .icmpv6) :
    ∃ t, exec i s = .next t ∧ ReceivedOnly s t f ∧
      t.status = ⟨.dropCksum, .none, false, .ok⟩ ∧ Computed t .icmpv6 (s.load f).plen :=
  exists_computed hfits rfl <| (exec_of_accepted (hi s) hfits hlen).trans <|
    congrArg _ (icmpChecked_load_of_mismatch hmin hv _)

/-- A message that passed the entry: loaded, computed, CKOK = 1, its end still to come (R132). -/
abbrev verified (s : State) (f : Frame) : State :=
  s.receivedComputed f .icmpv6 ⟨s.status.disp, .none, true, .ok⟩

/-- A message that passes the entry is handled. -/
theorem IsIcmpClass.exec_verified (hi : IsIcmpClass i f k) (hfits : f.length ≤ s.bufSize)
    (hlen : 54 + (s.load f).plen ≤ f.length) (hmin : 4 ≤ (s.load f).plen)
    (hv : Verifies (s.load f) .icmpv6) :
    exec i s = .next (k (s.load f).plen (verified s f)) := by
  rw [exec_of_accepted (hi s) hfits hlen, State.icmpChecked_load hmin hv]

/-- A verified message whose handler ends with a code alone (R134, R135, R138, R140). -/
theorem IsIcmpClass.quiet (hi : IsIcmpClass i f k) (hfits : f.length ≤ s.bufSize)
    (hlen : 54 + (s.load f).plen ≤ f.length) (hmin : 4 ≤ (s.load f).plen)
    (hv : Verifies (s.load f) .icmpv6) {c : Disp}
    (hk : k (s.load f).plen (verified s f) = (verified s f).setDisp c) :
    ∃ t, exec i s = .next t ∧ ReceivedOnly s t f ∧ t.status = ⟨c, .none, true, .ok⟩ ∧
      Computed t .icmpv6 (s.load f).plen :=
  exists_computed hfits rfl ((hi.exec_verified hfits hlen hmin hv).trans (congrArg _ hk))

end Icmp

/-- Settles O40: the four classes share their entry. -/
theorem icmpEntryDrops : Obligations.IcmpEntryDrops := by
  intro s f hfits hlen
  simp only [List.forall_mem_cons, List.not_mem_nil, false_imp_iff, implies_true, and_true]
  exact ⟨⟨(isIcmpClass_fNs f).short hfits hlen, (isIcmpClass_fNs f).mismatch hfits hlen⟩,
    ⟨(isIcmpClass_fNa f).short hfits hlen, (isIcmpClass_fNa f).mismatch hfits hlen⟩,
    ⟨(isIcmpClass_fEchoReq f).short hfits hlen, (isIcmpClass_fEchoReq f).mismatch hfits hlen⟩,
    (isIcmpClass_fIcmpOther f).short hfits hlen, (isIcmpClass_fIcmpOther f).mismatch hfits hlen⟩

/-- Settles O41: the two handlers' own tests on a verified message. -/
theorem neighborChecks : Obligations.NeighborChecks := by
  intro s f hfits hlen hmin hv i c h
  rcases h with ⟨rfl | rfl, hshort, rfl⟩ | ⟨rfl, htarget, hne, rfl⟩
  · exact (isIcmpClass_fNs f).quiet hfits hlen hmin hv (ns_of_short hshort)
  · exact (isIcmpClass_fNa f).quiet hfits hlen hmin hv (na_of_short hshort)
  · exact (isIcmpClass_fNs f).quiet hfits hlen hmin hv (ns_of_otherTarget htarget hne)

/-- Settles O42: a delivered Advertisement, and the end of F_ICMP_OTHER. -/
theorem icmpDeliveredOrIgnored : Obligations.IcmpDeliveredOrIgnored := by
  intro s f hfits hlen hmin hv
  refine ⟨fun htarget => ?delivered, (isIcmpClass_fIcmpOther f).quiet hfits hlen hmin hv rfl⟩
  have hna := (isIcmpClass_fNa f).exec_verified hfits hlen hmin hv
  exact exists_computed hfits rfl (hna.trans (congrArg _ (na_of_target htarget)))

/-! ## The two answers (R136, R139) -/

theorem sameConfig_verified (s : State) (f : Frame) : SameConfig s (verified s f) := by
  constructor <;> rfl

theorem rxlen_load_toNat {s : State} {f : Frame} (hfits : f.length ≤ s.bufSize) :
    (s.load f).rxlen.toNat = f.length := by
  rw [State.load_rxlen, BitVec.toNat_ofNat, Nat.mod_eq_of_lt (State.length_lt_of_fits hfits)]

theorem sameConfig_nsReply (s : State) : SameConfig s s.nsReply := by
  constructor <;> simp

theorem sameConfig_echo (s : State) (n : Nat) : SameConfig s (s.echo n) := by
  constructor <;> simp

/-- Settles O43: a verified Solicitation for LIP runs `nsReply`, whose fields are `nsReply_spec`. -/
theorem solicitationIsAnswered : Obligations.SolicitationIsAnswered := by
  intro s f hfits hlen htarget hv hlip
  have hns := (isIcmpClass_fNs f).exec_verified hfits hlen (by omega) hv
  have hreply : (verified s f).ns (s.load f).plen = (verified s f).nsReply := ns_of_target htarget hlip
  obtain ⟨header, typeCode, field, flags, target, option, optionMac, above, computed, transmitted⟩ :=
    (verified s f).nsReply_spec
  refine ⟨_, hns.trans (congrArg _ hreply), header, typeCode, field, flags, target.trans hlip, option,
    optionMac, above, computed, transmitted, ?rxlen, ?status, ?rx, ?config⟩
  case rxlen =>
    rw [State.nsReply_rxlen]
    exact rxlen_load_toNat hfits
  case status =>
    rw [State.nsReply_status]
    rfl
  case rx =>
    rw [State.nsReply_rx]
    rfl
  case config => exact sameConfig_trans (sameConfig_verified s f) (sameConfig_nsReply _)

/-- Settles O44: a verified Echo Request runs `echo`, whose fields are `echo_spec`. -/
theorem echoIsAnswered : Obligations.EchoIsAnswered := by
  intro s f hfits hlen hmin hv
  have hbuf := s.bufSize_bounds
  obtain ⟨header, typeCode, field, above, computed, transmitted⟩ :=
    (verified s f).echo_spec (n := (s.load f).plen) (by omega) rfl
  refine ⟨_, (isIcmpClass_fEchoReq f).exec_verified hfits hlen hmin hv, header, typeCode, field, above,
    computed, transmitted, ?rxlen, ?status, ?rx, ?config⟩
  case rxlen =>
    rw [State.echo_rxlen]
    exact rxlen_load_toNat hfits
  case status =>
    rw [State.echo_status]
    rfl
  case rx =>
    rw [State.echo_rx]
    rfl
  case config => exact sameConfig_trans (sameConfig_verified s f) (sameConfig_echo _ _)

/-! ## F_UDP (R151 to R154) -/

theorem exec_fUdp_of_accepted {s : State} {f : Frame} (hfits : f.length ≤ s.bufSize)
    (hlen : 54 + (s.load f).plen ≤ f.length) :
    exec (.fUdp f) s = .next (((s.setCmderr .ok).load f).udp (s.load f).plen) :=
  exec_of_accepted (k := State.udp) rfl hfits hlen

/-- Settles O45: the three tests of R151 to R153 in their order. -/
theorem udpChecksDrop : Obligations.UdpChecksDrop := by
  intro s f hfits hlen
  have hexec := exec_fUdp_of_accepted hfits hlen
  refine ⟨fun hshort => ?short, fun hmin hne => ?otherLength, fun hmin hudp hbad => ?mismatch⟩
  case short => exact exists_notComputed hfits (hexec.trans (congrArg _ (udp_of_short hshort)))
  case otherLength =>
    exact exists_notComputed hfits (hexec.trans (congrArg _ (udp_of_otherLength hmin hne)))
  case mismatch =>
    have hload := State.verify_load s f .udp
    rw [State.ckok_verify_of_ne (u := .udp) hbad] at hload
    refine exists_computed hfits rfl (hexec.trans (congrArg _ ?_))
    rw [udp_of_mismatch (l := (s.setCmderr .ok).load f) hmin hudp (by rw [hload]; rfl),
      verify_load_drop (u := .udp) hbad]

/-- Settles O46: past the three tests the datagram is delivered. -/
theorem datagramIsDelivered : Obligations.DatagramIsDelivered := by
  intro s f hfits hlen hmin hudp hv
  have hload := State.verify_load s f .udp
  rw [State.ckok_verify_of_eq (u := .udp) hv] at hload
  refine exists_computed hfits rfl ((exec_fUdp_of_accepted hfits hlen).trans (congrArg _ ?_))
  rw [udp_of_match (l := (s.setCmderr .ok).load f) hmin hudp (by rw [hload]; rfl), hload]
  rfl

end Sys2Proof.FrameEnds

/-! POLL as a whole: what it transmits (R91), the answers it sends (R141), the datagram one block sends and
another receives (R161), and the fields it does not look at (R72, R87). -/

namespace Sys2Proof.PollAnswers

open Sys2Proof.Machine Sys2Proof.Commands Sys2Proof.FrameClasses

/-! ## Bytes of a frame and of the buffer -/

theorem frameByte_memRead (s : State) {n i : Nat} (hi : i < n) :
    frameByte (s.memRead 0 n) i = s.byte i := by
  have hi' : i < (s.memRead 0 n).length := by rwa [State.memRead_length]
  rw [frameByte, List.getD_eq_getElem _ _ hi', State.getElem_memRead, Nat.zero_add]

/-- A run of bytes of a logged frame. -/
theorem take_drop_memRead (s : State) {n a k : Nat} (h : a + k ≤ n) :
    ((s.memRead 0 n).drop a).take k = s.memRead a k := by
  apply List.ext_getElem
  · simp only [List.length_take, List.length_drop, State.memRead_length]
    omega
  · intro i _ _
    simp only [List.getElem_take, List.getElem_drop, State.getElem_memRead, Nat.zero_add]

/-- A run of bytes of a loaded frame. -/
theorem memRead_load (s : State) {f : Frame} {a k : Nat} (h : a + k ≤ f.length) :
    (s.load f).memRead a k = (f.drop a).take k := by
  apply List.ext_getElem
  · simp only [List.length_take, List.length_drop, State.memRead_length]
    omega
  · intro i hi _
    rw [State.memRead_length] at hi
    simp only [List.getElem_take, List.getElem_drop, State.getElem_memRead]
    rw [State.byte_load, dif_pos (by omega)]

/-! ## What POLL transmits (R91) -/

/-- What an answered POLL left: the reply in the buffer, a segment of the header's PLEN with its checksum
filled and shown, transmitted once, nothing held. -/
structure Replied (s t : State) (len n : Nat) : Prop where
  header : ∃ dmac src dst, OriginatedHeader t dmac n 58 src dst
  field : t.be16 56 = t.ckres
  computed : Computed t .icmpv6 n
  transmitted : Transmitted s t (54 + n)
  hold : t.status.hold = s.status.hold
  rxlen : t.rxlen = s.rxlen
  minLen : 4 ≤ n
  fits : 54 + n ≤ s.bufSize
  disp : (t.status.disp = .repliedNa ∧ n = 32) ∨ (t.status.disp = .repliedEcho ∧ 54 + n ≤ len)

/-- Every end of the parser transmits nothing, or it is an answer (R89, R91). -/
theorem quiet_or_replied {l r : State} {len : Nat} (hlen : len ≤ l.bufSize) (h : ParseResult l len r) :
    (r.status.disp ≠ .repliedNa ∧ r.status.disp ≠ .repliedEcho ∧ NotTransmitted l r) ∨
      ∃ n, Replied l r len n := by
  have hbuf := l.bufSize_bounds
  cases h with
  | early c hc =>
    obtain ⟨hna, hecho, -, -⟩ := hc
    exact .inl ⟨hna, hecho, rfl, rfl⟩
  | late u c hc =>
    obtain ⟨hna, hecho, -, -⟩ := hc
    exact .inl ⟨hna, hecho, by simp, by simp⟩
  | na | udp => exact .inl ⟨by simp, by simp, by simp, by simp⟩
  | ns ha hn ht hp hv htgt =>
    obtain ⟨header, -, field, -, -, -, -, -, computed, transmitted⟩ :=
      (l.verify .icmpv6 l.plen).nsReply_spec
    refine .inr ⟨32, ⟨_, _, _, header⟩, field, computed, ?_, by simp, by simp, by omega, by omega,
      .inl ⟨by simp, rfl⟩⟩
    simpa [Transmitted] using transmitted
  | echo ha hn ht hp hv =>
    have hfits := ha.fits
    obtain ⟨header, -, field, -, computed, transmitted⟩ :=
      (l.verify .icmpv6 l.plen).echo_spec (n := l.plen) (by omega) rfl
    refine .inr ⟨l.plen, ⟨_, _, _, header⟩, field, computed, ?_, by simp, by simp, hp, by omega,
      .inr ⟨by simp, hfits⟩⟩
    simpa [Transmitted] using transmitted

/-- Every enabled POLL transmits nothing, or it loaded a frame that it answered. -/
theorem poll_quiet_or_replied (s : State) :
    (s.poll.status.disp ≠ .repliedNa ∧ s.poll.status.disp ≠ .repliedEcho ∧ NotTransmitted s s.poll) ∨
      ∃ f n, f.length ≤ s.bufSize ∧
        Replied ((s.dropAnswer.setCmderr .ok).load f) s.poll f.length n := by
  rcases s.poll_cases with ⟨-, h⟩ | ⟨f, -, -, h⟩ | ⟨f, -, -, hfits, h⟩
  · exact .inl (by simp [h, NotTransmitted])
  · exact .inl (by simp [h, NotTransmitted])
  · rcases quiet_or_replied (l := (s.dropAnswer.setCmderr .ok).load f) hfits h with hquiet | ⟨n, hr⟩
    · exact .inl hquiet
    · exact .inr ⟨f, n, hfits, hr⟩

/-- Settles O47: an answer is one frame, and its length is that of R136 or R139. -/
theorem pollTransmitsOnlyReplies : Obligations.PollTransmitsOnlyReplies := by
  intro s t hen h
  cases (exec_of_gate hen (Refusals.exec_poll s)).symm.trans h
  rcases poll_quiet_or_replied s with hquiet | ⟨f, n, hfits, hr⟩
  · exact .inl hquiet
  obtain ⟨hlog, hlen⟩ := hr.transmitted
  have hrx : s.poll.rxlen.toNat = f.length := by
    rw [hr.rxlen]
    exact FrameEnds.rxlen_load_toNat hfits
  have hmin := hr.minLen
  refine .inr ⟨_, hlog, by rw [hlen, State.memRead_length], hr.hold, ?_⟩
  rw [State.memRead_length, hrx]
  exact hr.disp.imp (fun ⟨hdisp, hn⟩ => ⟨hdisp, by omega⟩) fun ⟨hdisp, hn⟩ => ⟨hdisp, by omega, hn⟩

/-- Settles O49: an answer's own segment satisfies R119, and its field is the checksum shown. -/
theorem everyReplyVerifies : Obligations.EveryReplyVerifies := by
  intro s t hen h hdisp
  cases (exec_of_gate hen (Refusals.exec_poll s)).symm.trans h
  have hconfig := sameConfig_poll s
  rcases poll_quiet_or_replied s with ⟨hna, hecho, -⟩ | ⟨f, n, -, hr⟩
  · exact absurd hdisp (not_or.mpr ⟨hna, hecho⟩)
  obtain ⟨dmac, src, dst, header⟩ := hr.header
  obtain ⟨hlog, hlen⟩ := hr.transmitted
  have hplen : s.poll.plen = n := header.plenField
  have hparams : s.poll.bufSize = s.bufSize := congrArg Params.bufSize hconfig.params
  have hcheck : s.poll.checkable = some .icmpv6 := by
    rw [State.checkable_eq_some, hplen, hparams]
    exact ⟨hr.fits, header.nextHeader, hr.minLen⟩
  obtain ⟨r, hexec, hckok, hcmderr, -, -⟩ :=
    exec_ckvfy_of_computed (hconfig.en.trans hen) hcheck hr.field (hplen ▸ hr.computed)
  exact ⟨r, hexec, hckok, hcmderr, by rw [hlen]; exact hlog⟩

/-! ## The Advertisement goes to the Solicitation's source (R141) -/

/-- Settles O48: POLL runs F_NS, whose answer is addressed to the loaded frame's source. -/
theorem oneAdvertisementToTheSource : Obligations.OneAdvertisementToTheSource := by
  intro s f rest hen hrx hfits hclass hlen htarget hv hlip
  have hne : f ≠ [] := List.ne_nil_of_length_pos (by omega)
  have hpoll := exec_poll_eq_exec_instr hen hrx hne
  rw [hclass] at hpoll
  obtain ⟨t, ht, header, -, -, -, -, -, -, -, -, ⟨hlog, -⟩, -⟩ :=
    FrameEnds.solicitationIsAnswered { s with rx := rest } f hfits hlen htarget hv hlip
  refine ⟨t, t.memRead 0 86, hpoll.trans ht, hlog, t.memRead_length 0 86, ?_, ?_⟩
  · calc (t.memRead 0 86).take 6 = t.memRead 0 6 := take_drop_memRead t (a := 0) (by omega)
      _ = (s.load f).memRead 6 6 := header.ethDst
      _ = (f.drop 6).take 6 := memRead_load s (by omega)
  · calc ((t.memRead 0 86).drop 38).take 16 = t.memRead 38 16 := take_drop_memRead t (by omega)
      _ = (s.load f).memRead 22 16 := header.ipDst
      _ = (f.drop 22).take 16 := memRead_load s (by omega)

/-! ## A sent datagram is delivered where it fits (R161) -/

section Sent

variable {s t p : State} {len : Half} {dmac dst : List Byte} {dport : Half}

/-- The transmitted frame, loaded anywhere, shows the sender's buffer over its whole length. -/
theorem byte_load_memRead (t p : State) {n x : Nat} (hx : x < n) :
    (p.load (t.memRead 0 n)).byte x = t.byte x := by
  rw [byte_load_eq_frameByte p (by rwa [State.memRead_length]), frameByte_memRead t hx]

/-- The table classes a sent datagram as F_UDP. -/
theorem frameClass_of_sent (h : Sent s t len dmac dst dport) :
    frameClass (t.memRead 0 (62 + len.toNat)) = .udp := by
  have hbyte : ∀ i, i < 62 → frameByte (t.memRead 0 (62 + len.toNat)) i = t.byte i :=
    fun i hi => frameByte_memRead t (by omega)
  have hip := (HeaderTests.etherType_eq_iff t).1 h.header.ethType
  have hver : t.byte 14 = 0x60 := by
    have hvtf := congrArg (·.head?) h.header.vtf
    exact Option.some.inj hvtf
  rw [frameClass, hbyte 12 (by omega), hbyte 13 (by omega), hbyte 14 (by omega), hbyte 20 (by omega),
    if_neg (by rw [State.memRead_length]; omega), if_neg (not_not.mpr hip), hver, h.header.nextHeader]
  rfl

/-- The receiver reads PLEN, the UDP length and a verifying checksum from a sent datagram. -/
theorem load_of_sent (h : Sent s t len dmac dst dport) (p : State) :
    (p.load (t.memRead 0 (62 + len.toNat))).plen = len.toNat + 8 ∧
    ((p.load (t.memRead 0 (62 + len.toNat))).be16 58).toNat = len.toNat + 8 ∧
    ((p.load (t.memRead 0 (62 + len.toNat))).be16 60).toNat =
      ckfinal ((p.load (t.memRead 0 (62 + len.toNat))).rawSum .udp (len.toNat + 8)) := by
  have hbyte : ∀ x, x < 62 + len.toNat →
      (p.load (t.memRead 0 (62 + len.toNat))).byte x = t.byte x := fun _ => byte_load_memRead t p
  have hword : ∀ a, a + 1 < 62 → (p.load (t.memRead 0 (62 + len.toNat))).be16 a = t.be16 a :=
    fun a ha => State.be16_congr (hbyte a (by omega)) (hbyte (a + 1) (by omega))
  obtain ⟨-, hres⟩ := h.computed
  refine ⟨?_, ?_, ?_⟩
  · rw [State.plen, hword 18 (by omega)]
    exact h.header.plenField
  · rw [hword 58 (by omega), h.udpLen]
  · rw [hword 60 (by omega), h.field, hres,
      State.rawSum_congr (s := t) (fun a _ ha => hbyte a (by omega)) fun a _ ha _ _ => hbyte a (by omega)]

end Sent

/-- Settles O33: the transmitted frame is of class F_UDP and passes its three tests at the receiver. -/
theorem sentDatagramIsDelivered : Obligations.SentDatagramIsDelivered := by
  intro s t p i len f rest hi hexec hlog hen hfits hrx
  rcases refused_or_sent hi hexec with ⟨e, -, rfl⟩ | ⟨-, dmac, dst, dport, hsent⟩
  · exact absurd (List.self_eq_append_right.1 hlog) nofun
  obtain ⟨htxlog, -⟩ := hsent.transmitted
  obtain rfl : t.memRead 0 (62 + len.toNat) = f := by simpa [htxlog] using hlog
  obtain ⟨hplen, hudp, hck⟩ := load_of_sent hsent { p with rx := rest }
  have hne : t.memRead 0 (62 + len.toNat) ≠ [] :=
    List.ne_nil_of_length_pos (by rw [State.memRead_length]; omega)
  have hpoll := exec_poll_eq_exec_instr hen hrx hne
  rw [frameClass_of_sent hsent] at hpoll
  obtain ⟨q, hq, hreceived, hstatus, -⟩ := FrameEnds.datagramIsDelivered { p with rx := rest } _ hfits
    (by rw [hplen, State.memRead_length]; omega) (by omega) (by rw [hplen, hudp])
    (by rw [hplen]; exact hck)
  refine ⟨q, hpoll.trans hq, by rw [hstatus], by rw [hstatus], by rw [hstatus], ?_, hreceived.txlog,
    hreceived.txlen⟩
  refine State.memRead_congr fun x hx => ?_
  have hx' : 62 + x < (t.memRead 0 (62 + len.toNat)).length := by rw [State.memRead_length]; omega
  rw [hreceived.bytes, dif_pos hx', State.getElem_memRead, Nat.zero_add, hsent.above _ (by omega)]

/-! ## Fields that are not looked at (R72, R87) -/

/-- Byte 14 of a loaded frame carries the version, which is looked at. -/
theorem ipVersion_load (s : State) {f : Frame} (hlen : 14 < f.length) :
    (s.load f).ipVersion = (frameByte f 14).extractLsb' 4 4 := by
  rw [State.ipVersion, byte_load_eq_frameByte s hlen]

/-- R89's procedure on two loaded frames that agree wherever it looks. -/
theorem alikeOn_receive (s : State) {f g : Frame} (hlen : f.length = g.length)
    (hf : ∀ i, examined i → f[i]? = g[i]?)
    (hver : (frameByte f 14).extractLsb' 4 4 = (frameByte g 14).extractLsb' 4 4) :
    AlikeOn examined (s.receive f State.parse) (s.receive g State.parse) := by
  by_cases hfits : f.length ≤ s.bufSize
  · rw [State.receive_of_fits hfits, State.receive_of_fits (hlen ▸ hfits), ← hlen]
    by_cases hshort : f.length < 54
    · rw [HeaderTests.parse_of_short hshort, HeaderTests.parse_of_short hshort]
      exact (AlikeOn.load _ hlen hf).setDisp _
    · refine (AlikeOn.load _ hlen hf).parse ?_ _
      rw [ipVersion_load _ (by omega), ipVersion_load _ (by omega), hver]
  · rw [State.receive_of_oversize (by omega), State.receive_of_oversize (by omega)]
    exact ⟨⟨_, rfl⟩, fun _ _ => rfl⟩

/-- Settles O50: the two POLLs end in states that differ in unexamined bytes alone. -/
theorem unexaminedFieldsDoNotMatter : Obligations.UnexaminedFieldsDoNotMatter := by
  intro s t f g rest hen hrx hlen hf hver h
  by_cases hnil : f = []
  · have hnil' : g = [] := List.length_eq_zero_iff.mp (by rw [← hlen, hnil]; rfl)
    have hsame : ({ s with rx := some g :: rest } : State) = s := by rw [hnil', ← hnil, ← hrx]
    rw [hsame]
    exact ⟨t, h, rfl, rfl, rfl, rfl, rfl, rfl, rfl, fun _ _ _ => rfl⟩
  have hnil' : g ≠ [] := fun e => hnil (List.length_eq_zero_iff.mp (by rw [hlen, e]; rfl))
  have hexec := State.exec_poll_of_frame (s := { s with rx := some g :: rest }) hen rfl hnil'
  cases (State.exec_poll_of_frame hen hrx hnil).symm.trans h
  have halike := alikeOn_receive { s with rx := rest } hlen (fun i hi => hf i hi.1 hi.2) hver
  obtain ⟨m, hm⟩ := halike.rest
  refine ⟨_, hexec, ?_, ?_, ?_, ?_, ?_, ?_, ?_, fun a h6 ha => halike.byte a ⟨h6, ha⟩⟩ <;> rw [hm]

end Sys2Proof.PollAnswers

/-! Rules over all commands and frames: who changes the configuration (R38, R211), the STATUS fields (R17, R19,
R21), RXLEN and NI's answers (R29, R35), and the transmit log (R36). -/

namespace Sys2Proof.AllCommands

open Sys2Proof.Machine Sys2Proof.Commands Sys2Proof.FrameClasses

/-! ## Everything an instruction can do -/

/-- Everything a command can answer, with the command that answers so: `CommandResult` says the same without
the instruction. -/
inductive RunResult (s : State) : Instr → State → Prop
  /-- NOP, and every refusal (R167, R186). -/
  | code (i : Instr) (e : CmdErr) : RunResult s i (s.setCmderr e)
  /-- CKFILL (R120). -/
  | fill (u : UpperLayer) (h : s.checkable = some u) :
      RunResult s .ckfill ((s.fillCksum u s.plen).setCmderr .ok)
  /-- CKVFY (R121). -/
  | vfy (u : UpperLayer) (h : s.checkable = some u) :
      RunResult s .ckvfy ((s.verify u s.plen).setCmderr .ok)
  /-- UDPSEND and UDPREPLY (R156, R158). -/
  | sent (i : Instr) (t : State) (len : Half) (dmac dst : List Byte) (dport : Half)
      (hi : i = .udpsend len ∨ i = .udpreply len) (hlen : len.toNat ≤ s.bufSize - 62)
      (h : Sent s t len dmac dst dport) : RunResult s i t
  /-- XMIT (R170). -/
  | xmit (len : Half) (hmin : 14 ≤ len.toNat) (hmax : len.toNat ≤ s.bufSize) :
      RunResult s (.xmit len) (((s.tx len.toNat).setHold .none).setCmderr .ok)
  /-- POLL that loads no frame: there is none, or it is oversize (R80). -/
  | noload (c : Disp) : RunResult s .poll ((s.dropAnswer.setCmderr .ok).setDisp c)
  /-- POLL with a frame that fits (R80, R89). -/
  | received (f : Frame) (r : State) (hfits : f.length ≤ s.bufSize)
      (hr : ParseResult ((s.dropAnswer.setCmderr .ok).load f) f.length r) : RunResult s .poll r

theorem RunResult.of_gate {s : State} {i : Instr} {run : State → State} (h : RunResult s i (run s)) :
    RunResult s i (s.whenEnabled run) := by
  cases hen : s.en with
  | true => rwa [State.whenEnabled_of_en hen]
  | false =>
    rw [State.whenEnabled_of_not hen]
    exact .code i _

theorem RunResult.of_segment {s : State} {i : Instr} {run : UpperLayer → State}
    (h : ∀ u, s.checkable = some u → RunResult s i ((run u).setCmderr .ok)) :
    RunResult s i (s.onSegment run) := by
  cases hu : s.checkable with
  | none =>
    rw [onSegment_of_not_checkable hu]
    exact .code i _
  | some u =>
    rw [onSegment_of_checkable hu]
    exact h u hu

theorem runResult_poll (s : State) : RunResult s .poll s.poll := by
  rcases s.poll_cases with ⟨-, h⟩ | ⟨f, -, -, h⟩ | ⟨f, -, -, hfits, h⟩
  · rw [h]
    exact .noload .noframe
  · rw [h]
    exact .noload .dropOversize
  · exact .received f _ hfits h

theorem runResult_xmit (s : State) (len : Half) : RunResult s (.xmit len) (s.xmit len) := by
  by_cases h : len.toNat < 14 ∨ s.bufSize < len.toNat
  · rw [xmit_of_badLength h]
    exact .code _ _
  · rw [xmit_of_fits (by omega) (by omega)]
    exact .xmit len (by omega) (by omega)

theorem runResult_send {s t : State} {i : Instr} {len : Half} (hi : i = .udpsend len ∨ i = .udpreply len)
    (h : exec i s = .next t) : RunResult s i t := by
  rcases refused_or_sent hi h with ⟨e, -, rfl⟩ | ⟨hlen, dmac, dst, dport, hsent⟩
  · exact .code i e
  · exact .sent i t len dmac dst dport hi hlen hsent

theorem eq_receive_of_exec_instr {c : FrameClass} {f : Frame} {s t : State}
    (h : exec (c.instr f) s = .next t) : t = s.receive f (classHandler c) :=
  Host.Outcome.next.inj (h.symm.trans (exec_instr c f s))

/-- The inversion lemma of `exec`: a command's result, or a frame class handling its frame. -/
theorem exec_cases {i : Instr} {s t : State} (h : exec i s = .next t) :
    RunResult s i t ∨ ∃ c f, i = FrameClass.instr f c ∧ t = s.receive f (classHandler c) := by
  cases i with
  | nop | reservedCmd w =>
    cases h
    exact .inl (.code _ _)
  | poll =>
    cases h
    exact .inl (.of_gate (runResult_poll s))
  | udpsend len => exact .inl (runResult_send (.inl rfl) h)
  | udpreply len => exact .inl (runResult_send (.inr rfl) h)
  | ckfill =>
    cases h
    exact .inl (.of_gate (.of_segment .fill))
  | ckvfy =>
    cases h
    exact .inl (.of_gate (.of_segment .vfy))
  | xmit len =>
    cases h
    exact .inl (.of_gate (runResult_xmit s len))
  | fShort f => exact .inr ⟨.short, f, rfl, eq_receive_of_exec_instr (c := .short) h⟩
  | fNs f => exact .inr ⟨.ns, f, rfl, eq_receive_of_exec_instr (c := .ns) h⟩
  | fNa f => exact .inr ⟨.na, f, rfl, eq_receive_of_exec_instr (c := .na) h⟩
  | fEchoReq f => exact .inr ⟨.echoReq, f, rfl, eq_receive_of_exec_instr (c := .echoReq) h⟩
  | fUdp f => exact .inr ⟨.udp, f, rfl, eq_receive_of_exec_instr (c := .udp) h⟩
  | fIcmpOther f => exact .inr ⟨.icmpOther, f, rfl, eq_receive_of_exec_instr (c := .icmpOther) h⟩
  | fOtherNh f => exact .inr ⟨.otherNh, f, rfl, eq_receive_of_exec_instr (c := .otherNh) h⟩
  | fBadVersion f => exact .inr ⟨.badVersion, f, rfl, eq_receive_of_exec_instr (c := .badVersion) h⟩
  | fNotIpv6 f => exact .inr ⟨.notIpv6, f, rfl, eq_receive_of_exec_instr (c := .notIpv6) h⟩

/-- No command word decodes to a frame class. -/
theorem decodeCmd_ne_instr (w : Word) (c : FrameClass) (f : Frame) : decodeCmd w ≠ c.instr f := by
  intro h
  have henc := (RoundTrip.wf_and_encode_decodeCmd w).2
  rw [h, RoundTrip.encode_instr] at henc
  cases henc

theorem runResult_decodeCmd {w : Word} {s t : State} (h : exec (decodeCmd w) s = .next t) :
    RunResult s (decodeCmd w) t :=
  (exec_cases h).resolve_right fun ⟨c, f, hi, _⟩ => decodeCmd_ne_instr w c f hi

/-- Everything a frame class can make of a loaded frame: `ParseResult` without the tests that POLL has made
before it, which the class's own meaning does not repeat (log 14). -/
inductive ClassResult (l : State) (n : Nat) : State → Prop
  | quiet (c : Disp) : ClassResult l n (l.setDisp c)
  | computed (u : UpperLayer) (c : Disp) : ClassResult l n ((l.verify u l.plen).setDisp c)
  | delivered (u : UpperLayer) (h : Hold) (c : Disp) :
      ClassResult l n (((l.verify u l.plen).setHold h).setDisp c)
  | ns : ClassResult l n (l.verify .icmpv6 l.plen).nsReply
  | echo (hlen : 54 + l.plen ≤ n) : ClassResult l n ((l.verify .icmpv6 l.plen).echo l.plen)

theorem classResult_accepted {l : State} {n : Nat} (k : State → Nat → State)
    (h : 54 + l.plen ≤ n → ClassResult l n (k l l.plen)) : ClassResult l n (l.accepted n k) := by
  by_cases hlen : 54 + l.plen ≤ n
  · rw [State.accepted_of_le hlen]
    exact h hlen
  · rw [State.accepted_of_lt (by omega)]
    exact .quiet _

/-- The length check and the ICMPv6 entry, then what the handler makes of a verified message. -/
theorem classResult_icmp {l : State} {n : Nat} (k : Nat → State → State)
    (h : 54 + l.plen ≤ n → ClassResult l n (k l.plen (l.verify .icmpv6 l.plen))) :
    ClassResult l n (l.accepted n fun l plen => l.icmpChecked plen (k plen)) := by
  refine classResult_accepted (fun l plen => l.icmpChecked plen (k plen)) fun hlen => ?_
  unfold State.icmpChecked
  split
  · exact .quiet _
  · split
    · exact .computed _ _
    · exact h hlen

theorem classResult_ns (l : State) (n : Nat) :
    ClassResult l n ((l.verify .icmpv6 l.plen).ns l.plen) := by
  unfold State.ns
  split
  · exact .computed _ _
  · split
    · exact .computed _ _
    · exact .ns

theorem classResult_na (l : State) (n : Nat) :
    ClassResult l n ((l.verify .icmpv6 l.plen).na l.plen) := by
  unfold State.na
  split
  · exact .computed _ _
  · exact .delivered _ _ _

theorem classResult_udp (l : State) (n : Nat) : ClassResult l n (l.udp l.plen) := by
  unfold State.udp
  split
  · exact .quiet _
  · split
    · exact .quiet _
    · split
      · exact .computed _ _
      · exact .delivered _ _ _

theorem classResult_classHandler (c : FrameClass) (l : State) (n : Nat) :
    ClassResult l n (classHandler c l n) := by
  cases c with
  | short | notIpv6 | badVersion => exact .quiet _
  | ns => exact classResult_icmp (fun plen l => l.ns plen) fun _ => classResult_ns l n
  | na => exact classResult_icmp (fun plen l => l.na plen) fun _ => classResult_na l n
  | echoReq => exact classResult_icmp (fun plen l => l.echo plen) .echo
  | icmpOther => exact classResult_icmp (fun _ l => l.ignore .ignIcmpType) fun _ => .computed _ _
  | udp => exact classResult_accepted State.udp fun _ => classResult_udp l n
  | otherNh => exact classResult_accepted (fun l _ => l.ignore .ignNh) fun _ => .quiet _

/-- A frame class either loses its frame or handles it loaded (R80). -/
theorem receive_cases (c : FrameClass) (f : Frame) (s : State) :
    s.receive f (classHandler c) = (s.setCmderr .ok).setDisp .dropOversize ∨
      (f.length ≤ s.bufSize ∧
        ClassResult ((s.setCmderr .ok).load f) f.length (s.receive f (classHandler c))) := by
  by_cases hfits : f.length ≤ s.bufSize
  · rw [State.receive_of_fits hfits]
    exact .inr ⟨hfits, classResult_classHandler c _ _⟩
  · exact .inl (State.receive_of_oversize (by omega) _)

/-! ## The configuration (R38, R211) -/

theorem sameConfig_of_runResult {i : Instr} {s t : State} (h : RunResult s i t) : SameConfig s t := by
  cases h with
  | sent i t len dmac dst dport hi hlen h => exact h.config
  | noload c => exact sameConfig_noload s c
  | received f r hfits hr => exact sameConfig_received hr
  | code | fill | vfy | xmit => constructor <;> simp

theorem sameConfig_of_classResult {l r : State} {n : Nat} (h : ClassResult l n r) : SameConfig l r := by
  cases h <;> constructor <;> simp

theorem sameConfig_exec {i : Instr} {s t : State} (h : exec i s = .next t) : SameConfig s t := by
  rcases exec_cases h with hrun | ⟨c, f, -, rfl⟩
  · exact sameConfig_of_runResult hrun
  · rcases receive_cases c f s with hlost | ⟨-, hclass⟩
    · rw [hlost]
      constructor <;> simp
    · have hload : SameConfig s ((s.setCmderr .ok).load f) := by constructor <;> rfl
      exact sameConfig_trans hload (sameConfig_of_classResult hclass)

/-- A plain access that is no reset and no write of CTRL or of a configuration register touches the buffer
and the values returned, nothing else. -/
theorem plainAccess_eq {s : State} {a : Access} (hreset : a ≠ .reset)
    (hwr : ∀ n ∈ [0, 7, 8, 9, 10, 11, 12, 13], ∀ v, a ≠ .wr n v) :
    ∃ m rs, s.plainAccess a = { s with buf := m, reads := rs } := by
  cases a with
  | reset => exact absurd rfl hreset
  | rd n | br x => exact ⟨_, _, rfl⟩
  | bw x v => exact ⟨_, _, Accesses.hostSetByte_eq s x v⟩
  | wr n v =>
    have hwrite : s.writeNum n v = s := by
      by_cases hcmd : n = 1
      · subst hcmd
        cases v <;> rfl
      · refine Accesses.writeNum_of_readOnly s (fun hn => ?_) v
        exact hwr n (by simp at hn ⊢; omega) v rfl
    exact ⟨_, _, hwrite⟩

/-- Settles O51: no instruction configures, and of the plain accesses only the named writes and RESET. -/
theorem onlyHostWritesConfigure : Obligations.OnlyHostWritesConfigure := by
  refine ⟨fun i s t => sameConfig_exec, fun s t hreset hwr h => ?_⟩
  rcases Accesses.step_cases s with ⟨-, hstep⟩ | ⟨a, rest, hhost, -, hstep⟩ | ⟨w, rest, -, hstep⟩
  · cases hstep.symm.trans h
    exact ⟨rfl, rfl, rfl, rfl, rfl, rfl, rfl, rfl⟩
  · obtain ⟨m, rs, heq⟩ := plainAccess_eq (s := { s with host := rest })
      (fun e => hreset rest (e ▸ hhost)) fun n hn v e => hwr n hn v rest (e ▸ hhost)
    cases (hstep.trans (congrArg _ heq)).symm.trans h
    exact ⟨rfl, rfl, rfl, rfl, rfl, rfl, rfl, rfl⟩
  · have hconfig := sameConfig_exec (hstep.symm.trans h)
    exact ⟨hconfig.en, hconfig.hoplim, hconfig.lmac, hconfig.lip, hconfig.lport, hconfig.rmac,
      hconfig.rip, hconfig.rport⟩

/-! ## STATUS, RXLEN and NI's answers -/

theorem fields_of_runResult {i : Instr} {s t : State} (h : RunResult s i t) :
    (i ≠ .poll → t.status.disp = s.status.disp ∧ t.rxlen = s.rxlen ∧ t.rx = s.rx) ∧
      (i ≠ .poll → i ≠ .ckvfy → t.status.ckok = s.status.ckok) := by
  cases h with
  | code | fill | xmit => simp
  | vfy => exact ⟨fun _ => by simp, fun _ hne => absurd rfl hne⟩
  | sent i t len dmac dst dport hi hlen h => simp [h.status, h.rxlen, h.rx]
  | noload | received => exact ⟨fun hne => absurd rfl hne, fun hne => absurd rfl hne⟩

/-- Settles O52: every result but POLL's and CKVFY's leaves the fields. -/
theorem statusFieldWriters : Obligations.StatusFieldWriters :=
  fun _ _ _ h => fields_of_runResult (runResult_decodeCmd h)

/-- What an end of the parser does to the HOLD of the loaded frame. -/
theorem hold_of_parseResult {l r : State} {n : Nat} (h : ParseResult l n r) :
    r.status.hold = l.status.hold ∨ (r.status.hold = .udp ∧ r.status.disp = .deliveredUdp) ∨
      (r.status.hold = .na ∧ r.status.disp = .deliveredNa) := by
  cases h with
  | early | late | ns | echo => exact .inl (by simp)
  | na => exact .inr (.inr ⟨by simp, by simp⟩)
  | udp => exact .inr (.inl ⟨by simp, by simp⟩)

/-- Settles O53: the results that touch HOLD are the sends, XMIT and the POLL that loads a frame. -/
theorem holdLifecycle : Obligations.HoldLifecycle := by
  intro w s t h
  have hrun := runResult_decodeCmd h
  generalize decodeCmd w = i at hrun
  cases hrun with
  | code | fill | vfy | noload => exact .inl (by simp)
  | sent i t len dmac dst dport hi hlen h =>
    refine .inr (.inl ⟨by simp [h.status], by simp [h.status], .inr ⟨len, ?_⟩⟩)
    exact hi.imp id .inl
  | xmit len => exact .inr (.inl ⟨by simp, by simp, .inr ⟨len, .inr (.inr rfl)⟩⟩)
  | received f r hfits hr =>
    rcases hold_of_parseResult hr with hnone | hheld
    · exact .inr (.inl ⟨by simp [hnone], by simp [hr.cmderr], .inl rfl⟩)
    · exact .inr (.inr ⟨rfl, hheld⟩)

/-! ## The transmit log (R36) -/

/-- What a step did to the log: nothing, or one frame of a length that R36 and R170 allow. -/
def LogStep (s t : State) : Prop :=
  NotTransmitted s t ∨ ∃ n, 14 ≤ n ∧ n ≤ s.bufSize ∧ Transmitted s t n

/-- The log step from a state whose log and BUF_SIZE are those of another. -/
theorem LogStep.congr {s s' t : State} (h : LogStep s t) (hlog : s.txlog = s'.txlog)
    (hlen : s.txlen = s'.txlen) (hparams : s.params = s'.params) : LogStep s' t := by
  unfold LogStep NotTransmitted Transmitted State.bufSize at *
  rwa [← hlog, ← hlen, ← hparams]

theorem logStep_of_runResult {i : Instr} {s t : State} (h : RunResult s i t) : LogStep s t := by
  have hbuf := s.bufSize_bounds
  cases h with
  | code | fill | vfy | noload => exact .inl ⟨by simp, by simp⟩
  | sent i t len dmac dst dport hi hlen h => exact .inr ⟨_, by omega, by omega, h.transmitted⟩
  | xmit len hmin hmax => exact .inr ⟨_, hmin, hmax, rfl, by simp⟩
  | received f r hfits hr =>
    rcases PollAnswers.quiet_or_replied (l := (s.dropAnswer.setCmderr .ok).load f) hfits hr with
      ⟨-, -, hquiet⟩ | ⟨n, hreply⟩
    · exact .inl hquiet
    · exact .inr ⟨_, by omega, hreply.fits, hreply.transmitted⟩

theorem logStep_of_classResult {l r : State} {n : Nat} (hlen : n ≤ l.bufSize) (h : ClassResult l n r) :
    LogStep l r := by
  have hbuf := l.bufSize_bounds
  cases h with
  | quiet | computed | delivered => exact .inl ⟨by simp, by simp⟩
  | ns =>
    obtain ⟨-, -, -, -, -, -, -, -, -, transmitted⟩ := (l.verify .icmpv6 l.plen).nsReply_spec
    exact .inr ⟨86, by omega, hbuf.1, by simpa [Transmitted] using transmitted⟩
  | echo hfits =>
    obtain ⟨-, -, -, -, -, transmitted⟩ :=
      (l.verify .icmpv6 l.plen).echo_spec (n := l.plen) (by omega) rfl
    exact .inr ⟨54 + l.plen, by omega, by omega, by simpa [Transmitted] using transmitted⟩

theorem logStep_exec {i : Instr} {s t : State} (h : exec i s = .next t) : LogStep s t := by
  rcases exec_cases h with hrun | ⟨c, f, -, rfl⟩
  · exact logStep_of_runResult hrun
  · rcases receive_cases c f s with hlost | ⟨hfits, hclass⟩
    · rw [hlost]
      exact .inl ⟨rfl, rfl⟩
    · exact (logStep_of_classResult (l := (s.setCmderr .ok).load f) hfits hclass).congr rfl rfl rfl

/-- Settles O54: the one frame logged is the buffer as it stands, of TXLEN bytes. -/
theorem transmitLogOnlyGrows : Obligations.TransmitLogOnlyGrows := by
  intro i s t h
  rcases logStep_exec h with hnone | ⟨n, hmin, -, hlog, hlen⟩
  · exact .inl hnone
  · rw [hlen]
    exact .inr ⟨hlog, hmin⟩

end Sys2Proof.AllCommands

/-! The two invariants: what every step keeps of the buffer, the lengths, CKRES and HOLD (R29 to R33, R36), and
what the view shows while a frame is held (R98, R209). -/

namespace Sys2Proof.Invariants

open Sys2Proof.Machine Sys2Proof.Commands Sys2Proof.FrameClasses Sys2Proof.AllCommands

/-! ## The held view -/

theorem heldView_of_hold_none {t : State} (h : t.status.hold = .none) : t.HeldView :=
  ⟨fun e => absurd (h.symm.trans e) nofun, fun e => absurd (h.symm.trans e) nofun⟩

/-- The view of a held frame looks at header bytes below 62, and never at a checksum field. -/
theorem heldView_congr {s t : State} (h : s.HeldView) (hhold : t.status.hold = s.status.hold)
    (hrxlen : t.rxlen = s.rxlen)
    (hbyte : ∀ a, a < 56 ∨ a = 58 ∨ a = 59 → t.byte a = s.byte a) : t.HeldView := by
  have hword : ∀ a, a + 1 < 56 ∨ a = 58 → t.be16 a = s.be16 a := fun a ha =>
    State.be16_congr (hbyte a (by omega)) (hbyte (a + 1) (by omega))
  have htype : t.etherType = s.etherType := hword 12 (by omega)
  have hver : t.ipVersion = s.ipVersion := congrArg (·.extractLsb' 4 4) (hbyte 14 (by omega))
  have hplen : t.plen = s.plen := congrArg BitVec.toNat (hword 18 (by omega))
  have hnh : t.nextHeader = s.nextHeader := hbyte 20 (by omega)
  have hicmp : t.icmpType = s.icmpType := hbyte 54 (by omega)
  have hudp : t.be16 58 = s.be16 58 := hword 58 (by omega)
  obtain ⟨udp, na⟩ := h
  constructor
  · rw [hhold, htype, hver, hplen, hnh, hudp, hrxlen]
    exact udp
  · rw [hhold, htype, hver, hplen, hnh, hicmp, hrxlen]
    exact na

/-- What the parser delivers, it has tested (R98); every other end holds nothing. -/
theorem heldView_of_parseResult {l r : State} {n : Nat} (hnone : l.status.hold = .none)
    (hlen : l.rxlen.toNat = n) (h : ParseResult l n r) : r.HeldView := by
  cases h with
  | early | late | ns | echo => exact heldView_of_hold_none (by simp [hnone])
  | na ha hn ht hp hv =>
    have hview : (l.setHold .na).HeldView :=
      ⟨nofun, fun _ => ⟨ha.etype, ha.version, hn, ht, hp, ha.fits.trans_eq hlen.symm⟩⟩
    exact heldView_congr hview (by simp) (by simp) fun a _ => by simp
  | udp ha hn hp hl hv =>
    have hview : (l.setHold .udp).HeldView :=
      ⟨fun _ => ⟨ha.etype, ha.version, hn, hp, hl, ha.fits.trans_eq hlen.symm⟩, nofun⟩
    exact heldView_congr hview (by simp) (by simp) fun a _ => by simp

/-- What a command does to the held frame: it holds nothing afterwards, or the frame held before is still
there with the bytes the view looks at, or POLL has just delivered one. -/
theorem hold_of_runResult {i : Instr} {s t : State} (h : RunResult s i t) :
    t.status.hold = .none ∨
    (t.status.hold = s.status.hold ∧ t.rxlen = s.rxlen ∧
      ∀ a, a < 56 ∨ a = 58 ∨ a = 59 → t.byte a = s.byte a) ∨
    t.HeldView := by
  cases h with
  | code | vfy | noload => exact .inr (.inl ⟨by simp, by simp, fun a _ => by simp⟩)
  | fill u =>
    refine .inr (.inl ⟨by simp, by simp, fun a ha => ?_⟩)
    have hfield : u.ckoff = 56 ∨ u.ckoff = 60 := by cases u <;> decide
    rw [State.byte_setCmderr, State.byte_fillCksum, if_neg (by omega), if_neg (by omega)]
  | sent i t len dmac dst dport hi hlen h => exact .inl (by simp [h.status])
  | xmit => exact .inl (by simp)
  | received f r hfits hr =>
    exact .inr (.inr (heldView_of_parseResult (by simp)
      (FrameEnds.rxlen_load_toNat (s := s.dropAnswer.setCmderr .ok) hfits) hr))

theorem heldView_of_runResult {i : Instr} {s t : State} (hs : s.HeldView) (h : RunResult s i t) :
    t.HeldView := by
  rcases hold_of_runResult h with hnone | ⟨hhold, hrxlen, hbyte⟩ | hview
  · exact heldView_of_hold_none hnone
  · exact heldView_congr hs hhold hrxlen hbyte
  · exact hview

/-! ## Plain accesses -/

/-- `t` is `s` in everything that the invariants speak of but the buffer. -/
structure SameResults (s t : State) : Prop where
  params : t.params = s.params
  epoch : t.epoch = s.epoch
  rxlen : t.rxlen = s.rxlen
  txlen : t.txlen = s.txlen
  txlog : t.txlog = s.txlog
  ckacc : t.ckacc = s.ckacc
  ckres : t.ckres = s.ckres
  status : t.status = s.status

theorem sameResults_writeReg (s : State) (r : Reg) (v : RegVal) :
    SameResults s (s.writeReg r v) ∧ (s.writeReg r v).buf = s.buf := by
  unfold State.writeReg
  split <;> exact ⟨⟨rfl, rfl, rfl, rfl, rfl, rfl, rfl, rfl⟩, rfl⟩

theorem sameResults_writeNum (s : State) (n : Nat) (v : RegVal) :
    SameResults s (s.writeNum n v) ∧ (s.writeNum n v).buf = s.buf := by
  unfold State.writeNum
  split
  · exact sameResults_writeReg s _ v
  · exact ⟨⟨rfl, rfl, rfl, rfl, rfl, rfl, rfl, rfl⟩, rfl⟩

theorem sameResults_hostSetByte (s : State) (a : Half) (v : Byte) :
    SameResults s (s.hostSetByte a v) := by
  rw [Accesses.hostSetByte_eq]
  exact ⟨rfl, rfl, rfl, rfl, rfl, rfl, rfl, rfl⟩

/-- A plain access is a reset, a buffer write, or it leaves the buffer and all results. -/
theorem plainAccess_cases (s : State) (a : Access) :
    a = .reset ∨ (∃ x v, a = .bw x v) ∨
      (SameResults s (s.plainAccess a) ∧ (s.plainAccess a).buf = s.buf) := by
  cases a with
  | reset => exact .inl rfl
  | bw x v => exact .inr (.inl ⟨x, v, rfl⟩)
  | rd n | br x => exact .inr (.inr ⟨⟨rfl, rfl, rfl, rfl, rfl, rfl, rfl, rfl⟩, rfl⟩)
  | wr n v => exact .inr (.inr (sameResults_writeNum s n v))

theorem heldView_of_sameResults {s t : State} (hs : s.HeldView) (h : SameResults s t)
    (hbyte : ∀ a, a < 62 → t.byte a = s.byte a) : t.HeldView :=
  heldView_congr hs (congrArg Status.hold h.status) h.rxlen fun a ha => hbyte a (by omega)

theorem heldView_plainAccess {s : State} {a : Access} (hs : s.HeldView)
    (hbw : ∀ x v, a = .bw x v → 62 ≤ x.toNat) : (s.plainAccess a).HeldView := by
  rcases plainAccess_cases s a with rfl | ⟨x, v, rfl⟩ | ⟨hsame, hbuf⟩
  · exact heldView_of_hold_none rfl
  · refine heldView_of_sameResults hs (sameResults_hostSetByte s x v) fun b hb => ?_
    have hx := hbw x v rfl
    exact (Accesses.byte_hostSetByte s x v b).trans (if_neg (by omega))
  · exact heldView_of_sameResults hs hsame fun b _ => State.byte_congr hbuf hsame.epoch b

/-- Settles O11: resets and commands by what they do to HOLD, plain accesses by the bytes they leave. -/
theorem stepKeepsHeldView : Obligations.StepKeepsHeldView := by
  intro s t hs hbw h
  rcases Accesses.step_cases s with ⟨-, hstep⟩ | ⟨a, rest, hhost, -, hstep⟩ | ⟨w, rest, -, hstep⟩
  · cases hstep.symm.trans h
    exact hs
  · cases hstep.symm.trans h
    have hs' : ({ s with host := rest } : State).HeldView := ⟨hs.udp, hs.na⟩
    exact heldView_plainAccess hs' fun x v e => hbw x v rest (e ▸ hhost)
  · have hs' : ({ s with host := rest } : State).HeldView := ⟨hs.udp, hs.na⟩
    exact heldView_of_runResult hs' (runResult_decodeCmd (hstep.symm.trans h))

/-! ## The machine invariant -/

theorem inv_bufOk {s : State} (h : s.Inv) : s.BufOk := ⟨h.bufWf, h.bufIn⟩

/-- With all results as they were, the invariant asks for the buffer's form alone. -/
theorem inv_of_sameResults {s t : State} (hs : s.Inv) (h : SameResults s t) (hbuf : t.BufOk) :
    t.Inv := by
  have hsize : t.bufSize = s.bufSize := congrArg Params.bufSize h.params
  obtain ⟨hwf, hin⟩ := hbuf
  constructor
  · exact hwf
  · exact hin
  · rw [h.rxlen, hsize]
    exact hs.rxlenIn
  · rw [h.txlog, hsize]
    exact hs.txlogIn
  · rw [h.txlen, h.txlog]
    exact hs.txlenLast
  · rw [h.ckacc, h.ckres]
    exact hs.ckresOf
  · rw [h.status, h.rxlen]
    exact hs.holdUdp
  · rw [h.status, h.rxlen]
    exact hs.holdNa

/-- Taking the next access off the list leaves the block as it is. -/
theorem inv_taken {s : State} (hs : s.Inv) (rest : List Access) :
    ({ s with host := rest } : State).Inv :=
  inv_of_sameResults hs ⟨rfl, rfl, rfl, rfl, rfl, rfl, rfl, rfl⟩ ((inv_bufOk hs).congr rfl rfl)

theorem inv_reset (s : State) : s.applyReset.Inv := by
  obtain ⟨hreset, -⟩ := Accesses.resetHasInvariants s.params
  exact ⟨hreset.bufWf, hreset.bufIn, hreset.rxlenIn, hreset.txlogIn, hreset.txlenLast, hreset.ckresOf,
    hreset.holdUdp, hreset.holdNa⟩

theorem bufOk_hostSetByte {s : State} (hs : s.BufOk) (a : Half) (v : Byte) :
    (s.hostSetByte a v).BufOk := by
  unfold State.hostSetByte
  split
  · next ha => exact hs.setByte ha v
  · exact hs

theorem inv_plainAccess {s : State} (hs : s.Inv) (a : Access) : (s.plainAccess a).Inv := by
  rcases plainAccess_cases s a with rfl | ⟨x, v, rfl⟩ | ⟨hsame, hbuf⟩
  · exact inv_reset s
  · exact inv_of_sameResults hs (sameResults_hostSetByte s x v) (bufOk_hostSetByte (inv_bufOk hs) x v)
  · exact inv_of_sameResults hs hsame ((inv_bufOk hs).congr hbuf hsame.params)

/-! ### What a command does to each result -/

theorem rxlen_of_runResult {i : Instr} {s t : State} (h : RunResult s i t) :
    t.rxlen = s.rxlen ∨ t.rxlen.toNat ≤ s.bufSize := by
  cases h with
  | code | fill | vfy | xmit | noload => exact .inl (by simp)
  | sent i t len dmac dst dport hi hlen h => exact .inl h.rxlen
  | received f r hfits hr =>
    right
    rw [hr.rxlen, FrameEnds.rxlen_load_toNat (s := s.dropAnswer.setCmderr .ok) hfits]
    exact hfits

theorem computed_of_parseResult {l r : State} {n : Nat} (hlen : n ≤ 65535) (h : ParseResult l n r) :
    NotComputed l r ∨ ∃ u m, Computed r u m := by
  have hplen := l.plen_lt
  have hverify (u : UpperLayer) := computed_verify l u (n := l.plen) (by omega)
  cases h with
  | early => exact .inl ⟨by simp, by simp⟩
  | late u => exact .inr ⟨u, _, computed_congr (hverify u) (fun a => by simp) (by simp) (by simp)⟩
  | na => exact .inr ⟨.icmpv6, _, computed_congr (hverify _) (fun a => by simp) (by simp) (by simp)⟩
  | udp => exact .inr ⟨.udp, _, computed_congr (hverify _) (fun a => by simp) (by simp) (by simp)⟩
  | ns =>
    obtain ⟨-, -, -, -, -, -, -, -, hcomp, -⟩ := (l.verify .icmpv6 l.plen).nsReply_spec
    exact .inr ⟨_, _, hcomp⟩
  | echo ha =>
    have hfits := ha.fits
    obtain ⟨-, -, -, -, hcomp, -⟩ :=
      (l.verify .icmpv6 l.plen).echo_spec (n := l.plen) (by omega) rfl
    exact .inr ⟨_, _, hcomp⟩

/-- CKACC and CKRES are as before, or those of a computation (R31, R32). -/
theorem computed_of_runResult {i : Instr} {s t : State} (h : RunResult s i t) :
    NotComputed s t ∨ ∃ u m, Computed t u m := by
  have hbuf := s.bufSize_bounds
  have hplen := s.plen_lt
  cases h with
  | code | xmit | noload => exact .inl ⟨by simp, by simp⟩
  | fill u =>
    exact .inr ⟨u, _, computed_congr (s.computed_fillCksum u (n := s.plen) (by omega))
      (fun a => by simp) (by simp) (by simp)⟩
  | vfy u =>
    exact .inr ⟨u, _, computed_congr (computed_verify s u (n := s.plen) (by omega))
      (fun a => by simp) (by simp) (by simp)⟩
  | sent i t len dmac dst dport hi hlen h => exact .inr ⟨_, _, h.computed⟩
  | received f r hfits hr =>
    exact computed_of_parseResult (l := (s.dropAnswer.setCmderr .ok).load f) (by omega) hr

/-- A computation leaves CKACC at its sum, which is never 0, and CKRES at the sum's final value. -/
theorem ckresOf_of_computed {t : State} {u : UpperLayer} {m : Nat} (h : Computed t u m) :
    t.ckacc ≠ 0 ∧ t.ckres.toNat = ckfinal t.ckacc.toNat := by
  obtain ⟨hacc, hres⟩ := h
  have hpos := t.rawSum_pos u m
  refine ⟨fun hzero => ?_, by rw [hres, hacc]⟩
  rw [hzero] at hacc
  exact absurd hacc.symm (by simp; omega)

/-- The lengths behind HOLD follow from what the view shows. -/
theorem rxlen_of_heldView {t : State} (h : t.HeldView) :
    (t.status.hold = .udp → 62 ≤ t.rxlen.toNat) ∧ (t.status.hold = .na → 78 ≤ t.rxlen.toNat) := by
  constructor
  · intro hhold
    obtain ⟨-, -, -, hmin, -, hfits⟩ := h.udp hhold
    omega
  · intro hhold
    obtain ⟨-, -, -, -, hmin, hfits⟩ := h.na hhold
    omega

theorem rxlen_of_hold {i : Instr} {s t : State} (hs : s.Inv) (h : RunResult s i t) :
    (t.status.hold = .udp → 62 ≤ t.rxlen.toNat) ∧ (t.status.hold = .na → 78 ≤ t.rxlen.toNat) := by
  rcases hold_of_runResult h with hnone | ⟨hhold, hrxlen, -⟩ | hview
  · exact rxlen_of_heldView (heldView_of_hold_none hnone)
  · rw [hhold, hrxlen]
    exact ⟨hs.holdUdp, hs.holdNa⟩
  · exact rxlen_of_heldView hview

/-- Every command keeps the invariant, clause by clause. -/
theorem inv_of_runResult {i : Instr} {s t : State} (hs : s.Inv) (h : RunResult s i t)
    (hbuf : t.BufOk) : t.Inv := by
  have hsize : t.bufSize = s.bufSize := congrArg Params.bufSize (sameConfig_of_runResult h).params
  obtain ⟨hwf, hin⟩ := hbuf
  obtain ⟨hudp, hna⟩ := rxlen_of_hold hs h
  have hlog := logStep_of_runResult h
  constructor
  case bufWf => exact hwf
  case bufIn => exact hin
  case rxlenIn =>
    rw [hsize]
    rcases rxlen_of_runResult h with hrxlen | hrxlen
    · rw [hrxlen]
      exact hs.rxlenIn
    · exact hrxlen
  case txlogIn =>
    rw [hsize]
    rcases hlog with ⟨htxlog, -⟩ | ⟨n, hmin, hmax, htxlog, -⟩
    · rw [htxlog]
      exact hs.txlogIn
    · intro f hf
      rw [htxlog, List.mem_append, List.mem_singleton] at hf
      rcases hf with hf | rfl
      · exact hs.txlogIn f hf
      · rw [State.memRead_length]
        exact ⟨hmin, hmax⟩
  case txlenLast =>
    rcases hlog with ⟨htxlog, htxlen⟩ | ⟨n, -, -, htxlog, htxlen⟩
    · rw [htxlog, htxlen]
      exact hs.txlenLast
    · simp [htxlog, htxlen]
  case ckresOf =>
    rcases computed_of_runResult h with ⟨hacc, hres⟩ | ⟨u, m, hcomp⟩
    · rw [hacc, hres]
      exact hs.ckresOf
    · exact .inr (ckresOf_of_computed hcomp)
  case holdUdp => exact hudp
  case holdNa => exact hna

/-- Settles O10: an access keeps the invariant, and so does every command. -/
theorem stepKeepsInv : Obligations.StepKeepsInv := by
  intro s t hs h
  rcases Accesses.step_cases s with ⟨-, hstep⟩ | ⟨a, rest, -, -, hstep⟩ | ⟨w, rest, -, hstep⟩
  · cases hstep.symm.trans h
    exact hs
  · cases hstep.symm.trans h
    exact inv_plainAccess (inv_taken hs rest) a
  · have hexec := hstep.symm.trans h
    have hs' := inv_taken hs rest
    exact inv_of_runResult hs' (runResult_decodeCmd hexec)
      ((command_result hexec).bufOk (inv_bufOk hs'))

end Sys2Proof.Invariants
